-- ==== Sys2Proof/Word.lean ====
section
/-! DEFINITION. The word types of the INT256 core (00_scope.md R7, R8, R10; 10_state.md R21, R22). -/

namespace Sys2Proof

/-- A 256-bit pattern, without a view (00_scope.md R10, R19). -/
abbrev Pattern := BitVec 256

/-- One 64-bit limb of a pattern (00_scope.md R7, R11). -/
abbrev Limb := BitVec 64

/-- The 32-bit command word (30_encoding.md R70). -/
abbrev CmdWord := BitVec 32

/-- A register name, W0 to W15 (10_state.md R21). -/
abbrev Reg := Fin 16

/-- One byte. -/
abbrev Byte := BitVec 8

end Sys2Proof
end

