-- ==== Sys2Proof/Syntax.lean ====
section
/-! DEFINITION. The 35 commands of 30_encoding.md R75 as one inductive, their operands, mnemonics and formats. -/

namespace Sys2Proof

/-- One constructor per row of 30_encoding.md R75, operands in the spec's order (`rd`, then `ra`, then `rb`).
A shift count is a number; that it fits its 12-bit field is WellFormed's check (93_implementation_defined.md U15).
The DIN value of LDW, SETU and SETS is not part of the word (30_encoding.md R73). -/
inductive Instr where
  | ldw (rd : Reg)
  | stw (ra : Reg)
  | mov (rd ra : Reg)
  | setu (rd : Reg)
  | sets (rd : Reg)
  | add (rd ra rb : Reg)
  | sub (rd ra rb : Reg)
  | mul (rd ra rb : Reg)
  | udiv (rd ra rb : Reg)
  | urem (rd ra rb : Reg)
  | eq (ra rb : Reg)
  | gt (ra rb : Reg)
  | gte (ra rb : Reg)
  | isz (ra : Reg)
  | not (rd ra : Reg)
  | and (rd ra rb : Reg)
  | or (rd ra rb : Reg)
  | xor (rd ra rb : Reg)
  | shl (rd ra : Reg) (n : Nat)
  | shr (rd ra : Reg) (n : Nat)
  | signum (ra : Reg)
  | isneg (ra : Reg)
  | neg (rd ra : Reg)
  | abs (rd ra : Reg)
  | sgt (ra rb : Reg)
  | sgte (ra rb : Reg)
  | sadd (rd ra rb : Reg)
  | ssub (rd ra rb : Reg)
  | smul (rd ra rb : Reg)
  | div (rd ra rb : Reg)
  | mod (rd ra rb : Reg)
  | quo (rd ra rb : Reg)
  | rem (rd ra rb : Reg)
  | dive (rd ra rb : Reg)
  | mode (rd ra rb : Reg)
deriving DecidableEq, Repr

/-- The six formats of 30_encoding.md R71. -/
inductive Format where
  | r3 | r2 | ri | c2 | c1 | d1
deriving DecidableEq, Repr

/-- The format column of 30_encoding.md R71. -/
def Instr.format : Instr → Format
  | .ldw _ | .setu _ | .sets _ => .d1
  | .stw _ | .isz _ | .signum _ | .isneg _ => .c1
  | .mov _ _ | .not _ _ | .neg _ _ | .abs _ _ => .r2
  | .shl _ _ _ | .shr _ _ _ => .ri
  | .eq _ _ | .gt _ _ | .gte _ _ | .sgt _ _ | .sgte _ _ => .c2
  | .add _ _ _ | .sub _ _ _ | .mul _ _ _ | .udiv _ _ _ | .urem _ _ _ => .r3
  | .and _ _ _ | .or _ _ _ | .xor _ _ _ | .sadd _ _ _ | .ssub _ _ _ | .smul _ _ _ => .r3
  | .div _ _ _ | .mod _ _ _ | .quo _ _ _ | .rem _ _ _ | .dive _ _ _ | .mode _ _ _ => .r3

/-- The mnemonic column of 30_encoding.md R75. -/
def Instr.mnemonic : Instr → String
  | .ldw _ => "LDW" | .stw _ => "STW" | .mov _ _ => "MOV" | .setu _ => "SETU" | .sets _ => "SETS"
  | .add _ _ _ => "ADD" | .sub _ _ _ => "SUB" | .mul _ _ _ => "MUL" | .udiv _ _ _ => "UDIV" | .urem _ _ _ => "UREM"
  | .eq _ _ => "EQ" | .gt _ _ => "GT" | .gte _ _ => "GTE" | .isz _ => "ISZ"
  | .not _ _ => "NOT" | .and _ _ _ => "AND" | .or _ _ _ => "OR" | .xor _ _ _ => "XOR"
  | .shl _ _ _ => "SHL" | .shr _ _ _ => "SHR"
  | .signum _ => "SIGNUM" | .isneg _ => "ISNEG" | .neg _ _ => "NEG" | .abs _ _ => "ABS"
  | .sgt _ _ => "SGT" | .sgte _ _ => "SGTE"
  | .sadd _ _ _ => "SADD" | .ssub _ _ _ => "SSUB" | .smul _ _ _ => "SMUL"
  | .div _ _ _ => "DIV" | .mod _ _ _ => "MOD" | .quo _ _ _ => "QUO" | .rem _ _ _ => "REM"
  | .dive _ _ _ => "DIVE" | .mode _ _ _ => "MODE"

/-- The one place a command writes its result to. -/
inductive Target where
  | reg (rd : Reg)
  | flagT
  | flagSG
  | dout
deriving DecidableEq, Repr

/-- Where each command writes: "Write `rd`" and "Write no register" of 10_state.md R23, the seven predicate commands and
SIGNUM of R27, STW of R29. -/
def Instr.target : Instr → Target
  | .ldw d | .setu d | .sets d => .reg d
  | .mov d _ | .not d _ | .neg d _ | .abs d _ | .shl d _ _ | .shr d _ _ => .reg d
  | .add d _ _ | .sub d _ _ | .mul d _ _ | .udiv d _ _ | .urem d _ _ => .reg d
  | .and d _ _ | .or d _ _ | .xor d _ _ | .sadd d _ _ | .ssub d _ _ | .smul d _ _ => .reg d
  | .div d _ _ | .mod d _ _ | .quo d _ _ | .rem d _ _ | .dive d _ _ | .mode d _ _ => .reg d
  | .eq _ _ | .gt _ _ | .gte _ _ | .isz _ | .isneg _ | .sgt _ _ | .sgte _ _ => .flagT
  | .signum _ => .flagSG
  | .stw _ => .dout

/-- "Read `ra` only", "Read `ra` and `rb`", "Read no register" of 10_state.md R23. -/
def Instr.sources : Instr → List Reg
  | .ldw _ | .setu _ | .sets _ => []
  | .stw a | .isz a | .signum a | .isneg a => [a]
  | .mov _ a | .not _ a | .neg _ a | .abs _ a | .shl _ a _ | .shr _ a _ => [a]
  | .eq a b | .gt a b | .gte a b | .sgt a b | .sgte a b => [a, b]
  | .add _ a b | .sub _ a b | .mul _ a b | .udiv _ a b | .urem _ a b => [a, b]
  | .and _ a b | .or _ a b | .xor _ a b | .sadd _ a b | .ssub _ a b | .smul _ a b => [a, b]
  | .div _ a b | .mod _ a b | .quo _ a b | .rem _ a b | .dive _ a b | .mode _ a b => [a, b]

/-- What the host hands over in one transaction: a command word and the operand input sampled with it
(20_memory.md R51, R52). -/
structure Command where
  word : CmdWord
  din : Pattern
deriving DecidableEq, Repr

/-- One action of the host (70_reset_and_hazards.md R288). `reset` may arrive while a command is in flight, which is
then abandoned (20_memory.md R56). -/
inductive HostAction where
  | command (c : Command)
  | reset (inFlight : Option Command)
deriving DecidableEq, Repr

end Sys2Proof
end

