-- ==== Sys2Proof/WellFormed.lean ====
section
/-! DEFINITION. Which terms of Instr the 32-bit command word can express (30_encoding.md R70, R72). Register names are
within 0..15 by their type, so the shift count is the one field to check. -/

namespace Sys2Proof

/-- `n` is the 12 bits `cmd[11:0]`: "0 <= n <= 4095" (30_encoding.md R72, 93_implementation_defined.md U15). -/
def Instr.wf : Instr → Bool
  | .shl _ _ n | .shr _ _ n => n < 4096
  | .ldw _ | .stw _ | .mov _ _ | .setu _ | .sets _ => true
  | .add _ _ _ | .sub _ _ _ | .mul _ _ _ | .udiv _ _ _ | .urem _ _ _ => true
  | .eq _ _ | .gt _ _ | .gte _ _ | .isz _ => true
  | .not _ _ | .and _ _ _ | .or _ _ _ | .xor _ _ _ => true
  | .signum _ | .isneg _ | .neg _ _ | .abs _ _ | .sgt _ _ | .sgte _ _ => true
  | .sadd _ _ _ | .ssub _ _ _ | .smul _ _ _ => true
  | .div _ _ _ | .mod _ _ _ | .quo _ _ _ | .rem _ _ _ | .dive _ _ _ | .mode _ _ _ => true

end Sys2Proof
end

