-- ==== Sys2Proof/Decode.lean ====
section
/-! DEFINITION. The command word's fields, the opcode table, the decoder, the encoder, and the spec's notation for
commands (30_encoding.md R70 to R81). -/

namespace Sys2Proof

/-! ### Fields (30_encoding.md R70) -/

/-- `op = w[31:24]`. -/
def opField (w : CmdWord) : BitVec 8 := w.extractLsb' 24 8

/-- A 4-bit register index names a register; all 16 values are legal (30_encoding.md R73). -/
def regOfBits (b : BitVec 4) : Reg := ⟨b.toNat, b.isLt⟩

/-- `rd = w[23:20]`. -/
def rdField (w : CmdWord) : Reg := regOfBits (w.extractLsb' 20 4)

/-- `ra = w[19:16]`. -/
def raField (w : CmdWord) : Reg := regOfBits (w.extractLsb' 16 4)

/-- `rb = w[15:12]`. -/
def rbField (w : CmdWord) : Reg := regOfBits (w.extractLsb' 12 4)

/-- `n = w[11:0]`, read as an unsigned number (30_encoding.md R72). -/
def countField (w : CmdWord) : Nat := (w.extractLsb' 0 12).toNat

/-- `{op, rd, ra, rb, n}`: the word with these fields (30_encoding.md R70). -/
def assemble (op : BitVec 8) (rd ra rb : BitVec 4) (n : BitVec 12) : CmdWord := op ++ rd ++ ra ++ rb ++ n

/-- The bits of a register index. -/
def bitsOfReg (r : Reg) : BitVec 4 := BitVec.ofNat 4 r.val

/-! ### The opcode table (30_encoding.md R71, R75) -/

/-- The mask column of 30_encoding.md R71: a 1 in every bit that is fixed. -/
def Format.mask : Format → CmdWord
  | .r3 => 0xFF000FFF#32
  | .r2 => 0xFF00FFFF#32
  | .ri => 0xFF00F000#32
  | .c2 => 0xFFF00FFF#32
  | .c1 => 0xFFF0FFFF#32
  | .d1 => 0xFF0FFFFF#32

/-- One row of 30_encoding.md R75: opcode, format, and the command that the fields `rd ra rb n` give. -/
structure OpRow where
  op : BitVec 8
  fmt : Format
  build : Reg → Reg → Reg → Nat → Instr

/-- `match = op*2^24` (30_encoding.md R71). -/
def OpRow.pattern (row : OpRow) : CmdWord := assemble row.op 0 0 0 0

/-- `(w AND mask) = match` (30_encoding.md R71, R76). -/
def OpRow.matches (row : OpRow) (w : CmdWord) : Bool := w &&& row.fmt.mask == row.pattern

/-- 0x0_: construction and movement. -/
def moveRows : List OpRow := [
  ⟨0x01#8, .d1, fun d _ _ _ => .ldw d⟩,
  ⟨0x02#8, .c1, fun _ a _ _ => .stw a⟩,
  ⟨0x03#8, .r2, fun d a _ _ => .mov d a⟩,
  ⟨0x04#8, .d1, fun d _ _ _ => .setu d⟩,
  ⟨0x05#8, .d1, fun d _ _ _ => .sets d⟩]

/-- 0x1_: unsigned arithmetic. -/
def arithRows : List OpRow := [
  ⟨0x10#8, .r3, fun d a b _ => .add d a b⟩,
  ⟨0x11#8, .r3, fun d a b _ => .sub d a b⟩,
  ⟨0x12#8, .r3, fun d a b _ => .mul d a b⟩,
  ⟨0x13#8, .r3, fun d a b _ => .udiv d a b⟩,
  ⟨0x14#8, .r3, fun d a b _ => .urem d a b⟩]

/-- 0x2_: unsigned comparison. -/
def compareRows : List OpRow := [
  ⟨0x20#8, .c2, fun _ a b _ => .eq a b⟩,
  ⟨0x21#8, .c2, fun _ a b _ => .gt a b⟩,
  ⟨0x22#8, .c2, fun _ a b _ => .gte a b⟩,
  ⟨0x23#8, .c1, fun _ a _ _ => .isz a⟩]

/-- 0x3_: bitwise and shift. -/
def bitwiseRows : List OpRow := [
  ⟨0x30#8, .r2, fun d a _ _ => .not d a⟩,
  ⟨0x31#8, .r3, fun d a b _ => .and d a b⟩,
  ⟨0x32#8, .r3, fun d a b _ => .or d a b⟩,
  ⟨0x33#8, .r3, fun d a b _ => .xor d a b⟩,
  ⟨0x34#8, .ri, fun d a _ n => .shl d a n⟩,
  ⟨0x35#8, .ri, fun d a _ n => .shr d a n⟩]

/-- 0x4_: sign inspection, negation and signed comparison. -/
def signRows : List OpRow := [
  ⟨0x40#8, .c1, fun _ a _ _ => .signum a⟩,
  ⟨0x41#8, .c1, fun _ a _ _ => .isneg a⟩,
  ⟨0x42#8, .r2, fun d a _ _ => .neg d a⟩,
  ⟨0x43#8, .r2, fun d a _ _ => .abs d a⟩,
  ⟨0x44#8, .c2, fun _ a b _ => .sgt a b⟩,
  ⟨0x45#8, .c2, fun _ a b _ => .sgte a b⟩]

/-- 0x5_: checked signed arithmetic. -/
def checkedRows : List OpRow := [
  ⟨0x50#8, .r3, fun d a b _ => .sadd d a b⟩,
  ⟨0x51#8, .r3, fun d a b _ => .ssub d a b⟩,
  ⟨0x52#8, .r3, fun d a b _ => .smul d a b⟩]

/-- 0x6_: signed division. -/
def divisionRows : List OpRow := [
  ⟨0x60#8, .r3, fun d a b _ => .div d a b⟩,
  ⟨0x61#8, .r3, fun d a b _ => .mod d a b⟩,
  ⟨0x62#8, .r3, fun d a b _ => .quo d a b⟩,
  ⟨0x63#8, .r3, fun d a b _ => .rem d a b⟩,
  ⟨0x64#8, .r3, fun d a b _ => .dive d a b⟩,
  ⟨0x65#8, .r3, fun d a b _ => .mode d a b⟩]

/-- The complete opcode table: 35 commands (30_encoding.md R75). -/
def opTable : List OpRow :=
  moveRows ++ arithRows ++ compareRows ++ bitwiseRows ++ signRows ++ checkedRows ++ divisionRows

/-! ### Decoder (30_encoding.md R76, R77) -/

/-- Why a word is illegal; either way IllegalCommand is raised (30_encoding.md R76, 60_exceptions.md R255). -/
inductive DecodeError where
  /-- `op` is not one of the 35 values. -/
  | undefinedOpcode (op : BitVec 8)
  /-- A listed `op` with a non-zero must-be-zero field. -/
  | mustBeZero (op : BitVec 8) (bits : CmdWord)
deriving DecidableEq, Repr

/-- The row with opcode `op`. -/
def rowOf (op : BitVec 8) : Option OpRow := opTable.find? (fun row => row.op == op)

/-- The decode procedure of 30_encoding.md R77, total on all 2^32 words; it reads no state. -/
def decode (w : CmdWord) : Except DecodeError Instr :=
  match rowOf (opField w) with
  | none => .error (.undefinedOpcode (opField w))
  | some row =>
    if row.matches w then .ok (row.build (rdField w) (raField w) (rbField w) (countField w))
    else .error (.mustBeZero row.op (w &&& row.fmt.mask ^^^ row.pattern))

/-- A word is legal when it decodes (30_encoding.md R76). -/
def legal (w : CmdWord) : Bool :=
  match decode w with
  | .ok _ => true
  | .error _ => false

/-! ### Encoder (30_encoding.md R70, R71, R75) -/

/-- The opcode column of 30_encoding.md R75. -/
def Instr.opcode : Instr → BitVec 8
  | .ldw _ => 0x01#8 | .stw _ => 0x02#8 | .mov _ _ => 0x03#8 | .setu _ => 0x04#8 | .sets _ => 0x05#8
  | .add _ _ _ => 0x10#8 | .sub _ _ _ => 0x11#8 | .mul _ _ _ => 0x12#8
  | .udiv _ _ _ => 0x13#8 | .urem _ _ _ => 0x14#8
  | .eq _ _ => 0x20#8 | .gt _ _ => 0x21#8 | .gte _ _ => 0x22#8 | .isz _ => 0x23#8
  | .not _ _ => 0x30#8 | .and _ _ _ => 0x31#8 | .or _ _ _ => 0x32#8 | .xor _ _ _ => 0x33#8
  | .shl _ _ _ => 0x34#8 | .shr _ _ _ => 0x35#8
  | .signum _ => 0x40#8 | .isneg _ => 0x41#8 | .neg _ _ => 0x42#8 | .abs _ _ => 0x43#8
  | .sgt _ _ => 0x44#8 | .sgte _ _ => 0x45#8
  | .sadd _ _ _ => 0x50#8 | .ssub _ _ _ => 0x51#8 | .smul _ _ _ => 0x52#8
  | .div _ _ _ => 0x60#8 | .mod _ _ _ => 0x61#8 | .quo _ _ _ => 0x62#8 | .rem _ _ _ => 0x63#8
  | .dive _ _ _ => 0x64#8 | .mode _ _ _ => 0x65#8

/-- The word of a command; fields its format does not use are zero (30_encoding.md R70). -/
def encode (i : Instr) : CmdWord :=
  match i with
  | .ldw d | .setu d | .sets d => assemble i.opcode (bitsOfReg d) 0 0 0
  | .stw a | .isz a | .signum a | .isneg a => assemble i.opcode 0 (bitsOfReg a) 0 0
  | .mov d a | .not d a | .neg d a | .abs d a => assemble i.opcode (bitsOfReg d) (bitsOfReg a) 0 0
  | .shl d a n | .shr d a n => assemble i.opcode (bitsOfReg d) (bitsOfReg a) 0 (BitVec.ofNat 12 n)
  | .eq a b | .gt a b | .gte a b | .sgt a b | .sgte a b => assemble i.opcode 0 (bitsOfReg a) (bitsOfReg b) 0
  | .add d a b | .sub d a b | .mul d a b | .udiv d a b | .urem d a b
  | .and d a b | .or d a b | .xor d a b | .sadd d a b | .ssub d a b | .smul d a b
  | .div d a b | .mod d a b | .quo d a b | .rem d a b | .dive d a b | .mode d a b =>
    assemble i.opcode (bitsOfReg d) (bitsOfReg a) (bitsOfReg b) 0

/-- The instruction the decoder reads from a word whose `nbits` bits are `w` (one 32-bit word, bit `i` of the table is
wire `i` of `cmd`: 20_memory.md R57, 30_encoding.md R78). -/
def decodeTableWord (nbits w : Nat) : Option Instr :=
  match decode (BitVec.ofNat 32 (w % 2 ^ nbits)) with
  | .ok i => some i
  | .error _ => none

/-! ### Pseudo-instructions (30_encoding.md R81): exact synonyms, each with the DIN value it is issued with -/

/-- `CLR wd` is `SETU wd, =0`. -/
def pseudoClr (d : Reg) : Command := ⟨encode (.setu d), 0⟩

/-- `CLONE wd, wa` is `MOV wd, wa`. -/
def pseudoClone (d a : Reg) : Instr := .mov d a

/-- `LT wa, wb` is `GT wb, wa`. -/
def pseudoLt (a b : Reg) : Instr := .gt b a

/-- `LTE wa, wb` is `GTE wb, wa`. -/
def pseudoLte (a b : Reg) : Instr := .gte b a

/-- `SLT wa, wb` is `SGT wb, wa`. -/
def pseudoSlt (a b : Reg) : Instr := .sgt b a

/-- `SLTE wa, wb` is `SGTE wb, wa`. -/
def pseudoSlte (a b : Reg) : Instr := .sgte b a

/-- `LDMAXS wd` is `LDW wd, =MAX_S`. -/
def pseudoLdmaxs (d : Reg) : Command := ⟨encode (.ldw d), BitVec.ofNat 256 (2 ^ 255 - 1)⟩

/-- `LDMINS wd` is `LDW wd, =MINP`. -/
def pseudoLdmins (d : Reg) : Command := ⟨encode (.ldw d), BitVec.ofNat 256 (2 ^ 255)⟩

/-! ### Assembler notation (30_encoding.md R80) -/

/-- `w0` to `w15`. -/
def regName (r : Reg) : String := "w" ++ toString r.val

/-- The operands of a command in the notation of 30_encoding.md R80; `value` is the text of the DIN value of a D1
command. -/
def operandTexts (i : Instr) (value : String) : List String :=
  match i with
  | .ldw d | .setu d | .sets d => [regName d, "=" ++ value]
  | .stw a | .isz a | .signum a | .isneg a => [regName a]
  | .mov d a | .not d a | .neg d a | .abs d a => [regName d, regName a]
  | .shl d a n | .shr d a n => [regName d, regName a, "#" ++ toString n]
  | .eq a b | .gt a b | .gte a b | .sgt a b | .sgte a b => [regName a, regName b]
  | .add d a b | .sub d a b | .mul d a b | .udiv d a b | .urem d a b
  | .and d a b | .or d a b | .xor d a b | .sadd d a b | .ssub d a b | .smul d a b
  | .div d a b | .mod d a b | .quo d a b | .rem d a b | .dive d a b | .mode d a b =>
    [regName d, regName a, regName b]

/-- The DIN value as 30_encoding.md R80 lets it be written: for SETS a signed decimal of `DIN[63:0]`, for SETU an
unsigned decimal of it, for LDW an unsigned decimal of all of DIN. -/
def valueText (i : Instr) (din : Pattern) : String :=
  if i.opcode = 0x05#8 then toString (din.setWidth 64).toInt
  else if i.opcode = 0x04#8 then toString (din.setWidth 64).toNat
  else toString din.toNat

/-- One line of 30_encoding.md R80 for a command and its DIN value. -/
def assembly (i : Instr) (din : Pattern) : String :=
  i.mnemonic ++ " " ++ String.intercalate ", " (operandTexts i (valueText i din))

end Sys2Proof
end

