-- ==== Sys2Proof/Config.lean ====
section
/-! DEFINITION. What the spec leaves open. Nothing here has a value a proof could see. -/

namespace Sys2Proof

/-- What a command reads from a register that no command has written since the last reset (10_state.md R32,
93_implementation_defined.md U1: "any value"; log 2). `n` numbers the commands by the responses given before it,
`port` is 0 for the `ra` source and 1 for the `rb` source: two reads need not agree. -/
opaque Config.unwritten : (n : Nat) → (port : Nat) → Pattern

/-- What the `dout` output shows before the first STW after a reset (10_state.md R29, R32,
93_implementation_defined.md U2: "any value"; log 2). `n` is as above and `look` numbers the host's looks at the port. -/
opaque Config.unwrittenDout : (n : Nat) → (look : Nat) → Pattern

end Sys2Proof
end

