-- ==== Sys2Proof/Machine/State.lean ====
section
/-! DEFINITION. Everything the spec gives the core to hold (10_state.md R20 to R32), with the host's side of the command
port (20_memory.md R51, R52) and the model's own marks and counters (10_state.md R25, R32). -/

namespace Sys2Proof.Machine

/-- STATUS, field by field, all eight bits (10_state.md R26). Bit 7 is the `reserved` field. -/
structure Status where
  fault : Bool
  cause : BitVec 3
  t : Bool
  sg : BitVec 2
  reserved : Bool
deriving DecidableEq, Repr

/-- The state of the core.

`w`, `status`, `fcmd`, `dout` are the architectural state, "exactly" (10_state.md R20).
`written` and `doutWritten` are the marks 10_state.md R32 asks a model to keep.
`cmd` and `din` are the input ports as sampled at the last acceptance (20_memory.md R52).
`pending` is what the host will still do, first action first (10_state.md R25, 20_memory.md R56; log 5).
`k` is the index of 10_state.md R25.
`rsp` counts the `rsp_valid` pulses given so far and numbers the free values (20_memory.md R51; logs 2, 3). -/
structure State where
  w : Vector Pattern 16
  status : Status
  fcmd : CmdWord
  dout : Pattern
  written : Vector Bool 16
  doutWritten : Bool
  cmd : CmdWord
  din : Pattern
  pending : List HostAction
  k : Nat
  rsp : Nat
deriving DecidableEq, Repr

/-- Model-level faults: there are none, so no constructor. Every fault of the spec is latched in STATUS and is a next
state (60_exceptions.md R256), and a read of a register not yet written is a free value (log 2), not a fault. -/
inductive Fault where
deriving DecidableEq, Repr

/-- Reasons to have no meaning for an instruction. -/
inductive Refusal where
  /-- Raised by `exec` for an instruction that has no meaning yet; safe, because the machine stops. No arm raises it. -/
  | notModelled (mnemonic : String)
deriving DecidableEq, Repr

/-- STATUS = `0x00` (10_state.md R31, 70_reset_and_hazards.md R280). -/
def Status.reset : Status := { fault := false, cause := 0, t := false, sg := 0, reserved := false }

/-- The state right after reset (10_state.md R31): STATUS and FCMD are zero, no register and not DOUT is written. The
storage behind a clear mark is zero by DESIGN CHOICE (log 1), and no command reads it (log 2). The inputs are idle
(logs 4, 5), `k` starts at 0 (10_state.md R25) and no response has been given (log 3). -/
def State.reset : State where
  w := Vector.replicate 16 0
  status := Status.reset
  fcmd := 0
  dout := 0
  written := Vector.replicate 16 false
  doutWritten := false
  cmd := 0
  din := 0
  pending := []
  k := 0
  rsp := 0

end Sys2Proof.Machine
end

