-- ==== Sys2Proof/Machine/Ops.lean ====
section
/-! DEFINITION. The named operations over State: registers and their marks, DOUT, fault entry, reset, the command
transaction, the output ports. -/

namespace Sys2Proof.Machine

/-! ### Registers (10_state.md R21, R22, R32) -/

/-- The stored pattern of `W[r]`. -/
def State.reg (s : State) (r : Reg) : Pattern := s.w[r]

/-- Whether a command has written `W[r]` since the last reset (10_state.md R32). -/
def State.marked (s : State) (r : Reg) : Bool := s.written[r]

/-- `W[r]` as a command reads it through source port `port`: the stored pattern, or a free value where no command has
written the register since the last reset (10_state.md R32, 93_implementation_defined.md U1; log 2). -/
def State.read (s : State) (port : Nat) (r : Reg) : Pattern :=
  if s.marked r then s.reg r else Config.unwritten s.rsp port

/-- `W[r] <- v`, which marks the register (10_state.md R32). -/
def State.setReg (s : State) (r : Reg) (v : Pattern) : State :=
  { s with w := s.w.set r v, written := s.written.set r true }

/-- `DOUT <- v` (10_state.md R29), which marks DOUT (R32). -/
def State.setDout (s : State) (v : Pattern) : State := { s with dout := v, doutWritten := true }

/-- `STATUS.T <- b` (10_state.md R27). -/
def State.setT (s : State) (b : Bool) : State := { s with status := { s.status with t := b } }

/-- `STATUS.SG <- v` (10_state.md R27). -/
def State.setSG (s : State) (v : BitVec 2) : State := { s with status := { s.status with sg := v } }

/-! ### Limb view (00_scope.md R11, 10_state.md R22) -/

/-- `limb(p, i) = p[64*i+63 : 64*i]`. -/
def limb (p : Pattern) (i : Nat) : Limb := p.extractLsb' (64 * i) 64

/-- `W[r].Lk`. -/
def State.regLimb (s : State) (r : Reg) (k : Fin 4) : Limb := limb (s.reg r) k

/-! ### Faults (60_exceptions.md R250 to R257) -/

/-- The four causes (60_exceptions.md R250). -/
inductive Cause where
  | overflow
  | underflow
  | divideByZero
  | illegalCommand
deriving DecidableEq, Repr

/-- The cause codes of 60_exceptions.md R251. -/
def Cause.code : Cause → BitVec 3
  | .overflow => 1
  | .underflow => 2
  | .divideByZero => 3
  | .illegalCommand => 4

/-- `raise <Cause>`: fault entry (60_exceptions.md R256). FAULT, CAUSE and FCMD are written, nothing else. -/
def State.raise (s : State) (c : Cause) : State :=
  { s with status := { s.status with fault := true, cause := c.code }, fcmd := s.cmd }

/-- `if <condition>: raise <Cause>`, with the condition and the cause in one. -/
def State.raiseIf (s : State) : Option Cause → State
  | none => s
  | some c => s.raise c

/-! ### Reset (20_memory.md R56, 70_reset_and_hazards.md R280, R281) -/

/-- The reset event: STATUS and FCMD to zero, every register and DOUT unspecified again (all marks cleared, storage as in
`State.reset`), and a new run, so `k` starts over (70_reset_and_hazards.md R287). It gives no response, and it leaves the
input ports and what the host will still do as they are. -/
def State.takeReset (s : State) : State :=
  { s with
    w := State.reset.w
    status := Status.reset
    fcmd := 0
    dout := State.reset.dout
    written := State.reset.written
    doutWritten := false
    k := 0 }

/-! ### The command transaction (20_memory.md R52 to R55) -/

/-- Acceptance: `cmd` and `din` are sampled (20_memory.md R52), and the host goes on to `rest`. -/
def State.accept (s : State) (c : Command) (rest : List HostAction) : State :=
  { s with cmd := c.word, din := c.din, pending := rest }

/-- `rsp_valid` pulses, once per accepted command (20_memory.md R51, R55); `k` advances when the command completed without
fault and stops once FAULT = 1 (10_state.md R25). -/
def State.respond (s : State) : State :=
  { s with rsp := s.rsp + 1, k := if s.status.fault then s.k else s.k + 1 }

/-- The DIN value that stands with the next command, for `State.withFetchWord`; zero where no command is next (log 5). -/
def State.nextDin (s : State) : Pattern :=
  match s.pending with
  | .command c :: _ => c.din
  | .reset _ :: _ => 0
  | [] => 0

/-- The host's list with `w` as the word of its next command. -/
def State.offerNext (s : State) (w : CmdWord) : State :=
  { s with pending := .command ⟨w, s.nextDin⟩ :: s.pending.tail }

/-! ### Output ports (20_memory.md R51, R54) -/

/-- The `status` byte: bit 0 FAULT, bits 3:1 CAUSE, bit 4 T, bits 6:5 SG, bit 7 reserved (10_state.md R26). -/
def Status.byte (st : Status) : BitVec 8 :=
  BitVec.ofBool st.reserved ++ st.sg ++ BitVec.ofBool st.t ++ st.cause ++ BitVec.ofBool st.fault

/-- The `status` output. -/
def State.statusPort (s : State) : BitVec 8 := s.status.byte

/-- The `fcmd` output (10_state.md R28). -/
def State.fcmdPort (s : State) : CmdWord := s.fcmd

/-- The `fault` output equals STATUS.FAULT at all times (60_exceptions.md R261). -/
def State.faultPort (s : State) : Bool := s.status.fault

/-- The `dout` output at the host's look number `look`: DOUT, or a free value before the first STW since the last reset
(10_state.md R29, R32, 93_implementation_defined.md U2; log 2). -/
def State.doutPort (s : State) (look : Nat) : Pattern :=
  if s.doutWritten then s.dout else Config.unwrittenDout s.rsp look

/-- `cmd_ready`: every state of the model lies between commands and outside reset, where the core is idle and can accept
a command (20_memory.md R52, R56; log 6). -/
def State.cmdReady (_ : State) : Bool := true

/-! ### Byte and word images of a pattern, for hosts (20_memory.md R58) -/

/-- Byte `k` of `BE32(p)`: `b[k] = p[255-8k : 248-8k]`. -/
def be32Byte (p : Pattern) (k : Fin 32) : Byte := p.extractLsb' (248 - 8 * k.val) 8

/-- `BE32(p)`: 32 bytes, most significant first. -/
def be32 (p : Pattern) : List Byte := (List.finRange 32).map (be32Byte p)

/-- `word[j] = p[255-32j : 224-32j]`, j = 0..7. -/
def word32 (p : Pattern) (j : Fin 8) : BitVec 32 := p.extractLsb' (224 - 32 * j.val) 32

end Sys2Proof.Machine
end

