-- ==== Sys2Proof/Machine/Operands.lean ====
section
/-! DEFINITION. The operand forms (30_encoding.md R72, R73) and the value primitives of 00_scope.md R10 to R15. -/

namespace Sys2Proof.Machine

/-! ### Operand forms -/

/-- `x <- W[ra]`. -/
def State.srcA (s : State) (ra : Reg) : Pattern := s.read 0 ra

/-- `y <- W[rb]`. -/
def State.srcB (s : State) (rb : Reg) : Pattern := s.read 1 rb

/-- `DIN[63:0]` (30_encoding.md R73). -/
def State.din64 (s : State) : Limb := s.din.extractLsb' 0 64

/-- `zext_64(v) = v` (00_scope.md R13). -/
def zext64 (v : Limb) : Pattern := v.zeroExtend 256

/-- `sext_64(v)`: `v` if `v[63] = 0` and `v + 2^256 - 2^64` if `v[63] = 1` (00_scope.md R13). -/
def sext64 (v : Limb) : Pattern := v.signExtend 256

/-! ### The two views (00_scope.md R10, R12) -/

/-- `U(v) = v mod 2^256` (00_scope.md R10). -/
def toPattern (v : Int) : Pattern := BitVec.ofInt 256 v

/-- `S(p) = p` if `p[255] = 0`, and `p - 2^256` if `p[255] = 1` (00_scope.md R12). -/
def signed (p : Pattern) : Int := if p.msb then (p.toNat : Int) - 2 ^ 256 else (p.toNat : Int)

/-- `MINP = 2^255`, the pattern of `MIN_S = -2^255` (00_scope.md R12). -/
def minP : Pattern := BitVec.ofNat 256 (2 ^ 255)

/-- `MAX_S = 2^255 - 1` (00_scope.md R12). -/
def maxS : Pattern := BitVec.ofNat 256 (2 ^ 255 - 1)

/-- `MAX_U = 2^256 - 1` (00_scope.md R12). -/
def maxU : Pattern := BitVec.ofNat 256 (2 ^ 256 - 1)

/-! ### Value primitives (00_scope.md R15) -/

/-- `signum(x)`: 0, 1 or -1 (00_scope.md R15, 44_sign.md R181). -/
def signum (x : Pattern) : Int := if x = 0 then 0 else if x.msb then -1 else 1

/-- `neg256(x) = U(~x + 1)`, which never faults. -/
def neg256 (x : Pattern) : Pattern := ~~~x + 1

/-- `abs256(x)`: `x` if `x[255] = 0`, else `neg256(x)`; as an unsigned number it is `|S(x)|`. -/
def abs256 (x : Pattern) : Pattern := if x.msb then neg256 x else x

/-- The quotient of `udivrem(a, b)`; its callers test `b` for zero first (41_unsigned_arith.md R124). -/
def udivQuo (a b : Pattern) : Pattern := BitVec.ofNat 256 (a.toNat / b.toNat)

/-- The remainder of `udivrem(a, b)`. -/
def udivRem (a b : Pattern) : Pattern := BitVec.ofNat 256 (a.toNat % b.toNat)

/-! ### Shifts by an immediate count (43_bitwise_shift.md R165 to R167) -/

/-- "if n >= 256: 0, else U(x * 2^n)" (43_bitwise_shift.md R166); the count is not reduced modulo 256. -/
def shiftLeft (x : Pattern) (n : Nat) : Pattern := if n ≥ 256 then 0 else x <<< n

/-- "if n >= 256: 0, else floor(x / 2^n)" (43_bitwise_shift.md R167): logical in both views. -/
def shiftRight (x : Pattern) (n : Nat) : Pattern := if n ≥ 256 then 0 else x >>> n

end Sys2Proof.Machine
end

