-- ==== Sys2Proof/Machine/Flags.lean ====
section
/-! DEFINITION. What the commands compute into STATUS: the predicates of T, the code of SG, and the overflow detectors
(10_state.md R26, R27; 42_compare.md; 44_sign.md; 45_signed_checked.md R200 to R204). -/

namespace Sys2Proof.Machine

/-! ### T -/

/-- `x = y` (42_compare.md R141). -/
def predEq (x y : Pattern) : Bool := x == y

/-- `x > y` as unsigned numbers (42_compare.md R142). -/
def predGt (x y : Pattern) : Bool := decide (y.toNat < x.toNat)

/-- `x >= y` as unsigned numbers (42_compare.md R143). -/
def predGte (x y : Pattern) : Bool := decide (y.toNat ≤ x.toNat)

/-- `x = 0` (42_compare.md R144). -/
def predIsz (x : Pattern) : Bool := x == 0

/-- `signum(x) < 0` (44_sign.md R182). -/
def predIsneg (x : Pattern) : Bool := decide (signum x < 0)

/-- `S(x) > S(y)` (44_sign.md R186). -/
def predSgt (x y : Pattern) : Bool := decide (signed y < signed x)

/-- `S(x) >= S(y)` (44_sign.md R187). -/
def predSgte (x y : Pattern) : Bool := decide (signed y ≤ signed x)

/-! ### SG -/

/-- `0b00 if s = 0; 0b01 if s = 1; 0b11 if s = -1` (44_sign.md R181). -/
def sgCode (x : Pattern) : BitVec 2 :=
  if signum x = 0 then 0b00#2 else if signum x = 1 then 0b01#2 else 0b11#2

/-! ### Detectors: tests on three signs, not on the true result (45_signed_checked.md R200, R205) -/

/-- The two Add rows (45_signed_checked.md R202). -/
def detectAdd (sx sy sz : Int) : Option Cause :=
  if 0 < sx ∧ 0 < sy ∧ sz < 0 then some .overflow
  else if sx < 0 ∧ sy < 0 ∧ 0 < sz then some .underflow
  else none

/-- The note under the table, which replaces the two garbled Sub rows (45_signed_checked.md R203, 90_conflicts.md C6). -/
def detectSub (sx sy sz : Int) : Option Cause :=
  if 0 < sx ∧ sy < 0 ∧ sz < 0 then some .overflow
  else if sx < 0 ∧ 0 < sy ∧ 0 < sz then some .underflow
  else none

/-- The three Mul rows (45_signed_checked.md R204). -/
def detectMul (sx sy sz : Int) : Option Cause :=
  if 0 < sx ∧ 0 < sy ∧ sz < 0 then some .overflow
  else if sx < 0 ∧ sy < 0 ∧ sz < 0 then some .overflow
  else if ((0 < sx ∧ sy < 0) ∨ (sx < 0 ∧ 0 < sy)) ∧ 0 < sz then some .underflow
  else none

/-- The signs of the two operands and of the wrapped result, put to a detector (45_signed_checked.md R200). -/
def detect (rule : Int → Int → Int → Option Cause) (x y z : Pattern) : Option Cause :=
  rule (signum x) (signum y) (signum z)

/-- "if x = MINP: raise Overflow" (44_sign.md R183, 90_conflicts.md C5). -/
def detectNeg (x : Pattern) : Option Cause := if x = minP then some .overflow else none

/-- Commit the wrapped value, then fault if the detector says so (45_signed_checked.md R201, decision D9; log 7). -/
def State.commitChecked (s : State) (rd : Reg) (z : Pattern) (c : Option Cause) : State :=
  (s.setReg rd z).raiseIf c

/-- "if y = 0: raise DivideByZero", else write the result; on the fault `W[rd]` is not written (60_exceptions.md R254). -/
def State.commitDivision (s : State) (rd : Reg) (y v : Pattern) : State :=
  if y = 0 then s.raise .divideByZero else s.setReg rd v

end Sys2Proof.Machine
end

