-- ==== Sys2Proof/Machine/Arith.lean ====
section
/-! DEFINITION. Unsigned arithmetic: ADD, SUB, MUL, UDIV, UREM (41_unsigned_arith.md R120 to R127). -/

namespace Sys2Proof.Machine

/-- `W[rd] <- U(x + y)` (41_unsigned_arith.md R121). -/
def execAdd (rd ra rb : Reg) (s : State) : Host.Outcome State Fault Refusal :=
  .next (s.setReg rd (s.srcA ra + s.srcB rb))

/-- `W[rd] <- U(x - y)` (41_unsigned_arith.md R122). -/
def execSub (rd ra rb : Reg) (s : State) : Host.Outcome State Fault Refusal :=
  .next (s.setReg rd (s.srcA ra - s.srcB rb))

/-- `W[rd] <- U(x * y)` (41_unsigned_arith.md R123). -/
def execMul (rd ra rb : Reg) (s : State) : Host.Outcome State Fault Refusal :=
  .next (s.setReg rd (s.srcA ra * s.srcB rb))

/-- Unsigned quotient; DivideByZero for a zero divisor (41_unsigned_arith.md R125). -/
def execUdiv (rd ra rb : Reg) (s : State) : Host.Outcome State Fault Refusal :=
  .next (s.commitDivision rd (s.srcB rb) (udivQuo (s.srcA ra) (s.srcB rb)))

/-- Unsigned remainder; DivideByZero for a zero divisor (41_unsigned_arith.md R126). -/
def execUrem (rd ra rb : Reg) (s : State) : Host.Outcome State Fault Refusal :=
  .next (s.commitDivision rd (s.srcB rb) (udivRem (s.srcA ra) (s.srcB rb)))

end Sys2Proof.Machine
end

