-- ==== Sys2Proof/Machine/Bitwise.lean ====
section
/-! DEFINITION. Bitwise operations and shifts: NOT, AND, OR, XOR, SHL, SHR (43_bitwise_shift.md R160 to R168). -/

namespace Sys2Proof.Machine

/-- Every bit inverted (43_bitwise_shift.md R161). -/
def execNot (rd ra : Reg) (s : State) : Host.Outcome State Fault Refusal :=
  .next (s.setReg rd (~~~s.srcA ra))

/-- `z[i] = x[i] * y[i]` (43_bitwise_shift.md R162). -/
def execAnd (rd ra rb : Reg) (s : State) : Host.Outcome State Fault Refusal :=
  .next (s.setReg rd (s.srcA ra &&& s.srcB rb))

/-- `z[i] = x[i] + y[i] - x[i]*y[i]` (43_bitwise_shift.md R163). -/
def execOr (rd ra rb : Reg) (s : State) : Host.Outcome State Fault Refusal :=
  .next (s.setReg rd (s.srcA ra ||| s.srcB rb))

/-- `z[i] = (x[i] + y[i]) mod 2` (43_bitwise_shift.md R164). -/
def execXor (rd ra rb : Reg) (s : State) : Host.Outcome State Fault Refusal :=
  .next (s.setReg rd (s.srcA ra ^^^ s.srcB rb))

/-- Shift left by the immediate count, zero fill (43_bitwise_shift.md R166). -/
def execShl (rd ra : Reg) (n : Nat) (s : State) : Host.Outcome State Fault Refusal :=
  .next (s.setReg rd (shiftLeft (s.srcA ra) n))

/-- Logical shift right by the immediate count (43_bitwise_shift.md R167, 90_conflicts.md C4). -/
def execShr (rd ra : Reg) (n : Nat) (s : State) : Host.Outcome State Fault Refusal :=
  .next (s.setReg rd (shiftRight (s.srcA ra) n))

end Sys2Proof.Machine
end

