-- ==== Sys2Proof/Machine/Checked.lean ====
section
/-! DEFINITION. Checked signed arithmetic: SADD, SSUB, SMUL (45_signed_checked.md R200 to R206). The detectors are the sign table, not a range check (R205, 90_conflicts.md C7). -/

namespace Sys2Proof.Machine

/-- Wrapped sum, then the Add detector (45_signed_checked.md R202). -/
def execSadd (rd ra rb : Reg) (s : State) : Host.Outcome State Fault Refusal :=
  .next (s.commitChecked rd (s.srcA ra + s.srcB rb)
    (detect detectAdd (s.srcA ra) (s.srcB rb) (s.srcA ra + s.srcB rb)))

/-- Wrapped difference, then the Sub detector (45_signed_checked.md R203). -/
def execSsub (rd ra rb : Reg) (s : State) : Host.Outcome State Fault Refusal :=
  .next (s.commitChecked rd (s.srcA ra - s.srcB rb)
    (detect detectSub (s.srcA ra) (s.srcB rb) (s.srcA ra - s.srcB rb)))

/-- Wrapped product, then the Mul detector (45_signed_checked.md R204). -/
def execSmul (rd ra rb : Reg) (s : State) : Host.Outcome State Fault Refusal :=
  .next (s.commitChecked rd (s.srcA ra * s.srcB rb)
    (detect detectMul (s.srcA ra) (s.srcB rb) (s.srcA ra * s.srcB rb)))

end Sys2Proof.Machine
end

