-- ==== Sys2Proof/Machine/Compare.lean ====
section
/-! DEFINITION. Unsigned comparison: EQ, GT, GTE, ISZ (42_compare.md R140 to R145). -/

namespace Sys2Proof.Machine

/-- `STATUS.T <- x = y` (42_compare.md R141). -/
def execEq (ra rb : Reg) (s : State) : Host.Outcome State Fault Refusal :=
  .next (s.setT (predEq (s.srcA ra) (s.srcB rb)))

/-- `STATUS.T <- x > y`, unsigned (42_compare.md R142). -/
def execGt (ra rb : Reg) (s : State) : Host.Outcome State Fault Refusal :=
  .next (s.setT (predGt (s.srcA ra) (s.srcB rb)))

/-- `STATUS.T <- x >= y`, unsigned (42_compare.md R143). -/
def execGte (ra rb : Reg) (s : State) : Host.Outcome State Fault Refusal :=
  .next (s.setT (predGte (s.srcA ra) (s.srcB rb)))

/-- `STATUS.T <- x = 0` (42_compare.md R144). -/
def execIsz (ra : Reg) (s : State) : Host.Outcome State Fault Refusal :=
  .next (s.setT (predIsz (s.srcA ra)))

end Sys2Proof.Machine
end

