-- ==== Sys2Proof/Machine/Division.lean ====
section
/-! DEFINITION. Signed division, three conventions: DIV, MOD, QUO, REM, DIVE, MODE (46_signed_division.md R220 to R230). -/

namespace Sys2Proof.Machine

/-! ### Values (46_signed_division.md R220, R221); the divisor is not zero -/

/-- `uq`: the magnitude quotient (46_signed_division.md R220). -/
def magQuo (x y : Pattern) : Pattern := udivQuo (abs256 x) (abs256 y)

/-- `ur`: the magnitude remainder (46_signed_division.md R220). -/
def magRem (x y : Pattern) : Pattern := udivRem (abs256 x) (abs256 y)

/-- `qt`: the quotient is negative when the signs differ (46_signed_division.md R221). -/
def truncQuo (x y : Pattern) : Pattern := if x.msb = y.msb then magQuo x y else neg256 (magQuo x y)

/-- `rt`: the remainder takes the sign of the dividend (46_signed_division.md R221). -/
def truncRem (x y : Pattern) : Pattern := if x.msb then neg256 (magRem x y) else magRem x y

/-- `qf`: one further from zero when inexact and negative (46_signed_division.md R224). -/
def floorQuo (x y : Pattern) : Pattern :=
  if magRem x y ≠ 0 ∧ x.msb ≠ y.msb then truncQuo x y - 1 else truncQuo x y

/-- `rf`: the remainder moved to the divisor's side (46_signed_division.md R225, 90_conflicts.md C1). -/
def floorRem (x y : Pattern) : Pattern :=
  if magRem x y ≠ 0 ∧ x.msb ≠ y.msb then truncRem x y + y else truncRem x y

/-- `qe`: corrected when the truncated remainder is negative (46_signed_division.md R226). -/
def euclidQuo (x y : Pattern) : Pattern :=
  if magRem x y ≠ 0 ∧ x.msb then if y.msb then truncQuo x y + 1 else truncQuo x y - 1
  else truncQuo x y

/-- `re`: the residue in `[0, |Y| - 1]` (46_signed_division.md R227). -/
def euclidRem (x y : Pattern) : Pattern :=
  if magRem x y ≠ 0 ∧ x.msb then abs256 y - magRem x y else magRem x y

/-! ### Meanings -/

/-- Floored quotient (46_signed_division.md R224). -/
def execDiv (rd ra rb : Reg) (s : State) : Host.Outcome State Fault Refusal :=
  .next (s.commitDivision rd (s.srcB rb) (floorQuo (s.srcA ra) (s.srcB rb)))

/-- Floored remainder (46_signed_division.md R225). -/
def execMod (rd ra rb : Reg) (s : State) : Host.Outcome State Fault Refusal :=
  .next (s.commitDivision rd (s.srcB rb) (floorRem (s.srcA ra) (s.srcB rb)))

/-- Truncated quotient (46_signed_division.md R222). -/
def execQuo (rd ra rb : Reg) (s : State) : Host.Outcome State Fault Refusal :=
  .next (s.commitDivision rd (s.srcB rb) (truncQuo (s.srcA ra) (s.srcB rb)))

/-- Truncated remainder (46_signed_division.md R223). -/
def execRem (rd ra rb : Reg) (s : State) : Host.Outcome State Fault Refusal :=
  .next (s.commitDivision rd (s.srcB rb) (truncRem (s.srcA ra) (s.srcB rb)))

/-- Euclidean quotient (46_signed_division.md R226). -/
def execDive (rd ra rb : Reg) (s : State) : Host.Outcome State Fault Refusal :=
  .next (s.commitDivision rd (s.srcB rb) (euclidQuo (s.srcA ra) (s.srcB rb)))

/-- Euclidean remainder (46_signed_division.md R227). -/
def execMode (rd ra rb : Reg) (s : State) : Host.Outcome State Fault Refusal :=
  .next (s.commitDivision rd (s.srcB rb) (euclidRem (s.srcA ra) (s.srcB rb)))

end Sys2Proof.Machine
end

