-- ==== Sys2Proof/Machine/Move.lean ====
section
/-! DEFINITION. Construction and movement: LDW, STW, MOV, SETU, SETS (40_construct_move.md R100 to R105). -/

namespace Sys2Proof.Machine

/-- `W[rd] <- DIN[255:0]` (40_construct_move.md R101). -/
def execLdw (rd : Reg) (s : State) : Host.Outcome State Fault Refusal :=
  .next (s.setReg rd s.din)

/-- `DOUT <- W[ra]` (40_construct_move.md R102). -/
def execStw (ra : Reg) (s : State) : Host.Outcome State Fault Refusal :=
  .next (s.setDout (s.srcA ra))

/-- `W[rd] <- W[ra]` (40_construct_move.md R103). -/
def execMov (rd ra : Reg) (s : State) : Host.Outcome State Fault Refusal :=
  .next (s.setReg rd (s.srcA ra))

/-- `W[rd] <- zext_64(DIN[63:0])` (40_construct_move.md R104). -/
def execSetu (rd : Reg) (s : State) : Host.Outcome State Fault Refusal :=
  .next (s.setReg rd (zext64 s.din64))

/-- `W[rd] <- sext_64(DIN[63:0])` (40_construct_move.md R105). -/
def execSets (rd : Reg) (s : State) : Host.Outcome State Fault Refusal :=
  .next (s.setReg rd (sext64 s.din64))

end Sys2Proof.Machine
end

