-- ==== Sys2Proof/Machine/Sign.lean ====
section
/-! DEFINITION. Sign inspection, negation, magnitude, signed comparison: SIGNUM, ISNEG, NEG, ABS, SGT, SGTE (44_sign.md R180 to R188). -/

namespace Sys2Proof.Machine

/-- `STATUS.SG <- ` the code of `signum(x)` (44_sign.md R181). -/
def execSignum (ra : Reg) (s : State) : Host.Outcome State Fault Refusal :=
  .next (s.setSG (sgCode (s.srcA ra)))

/-- `STATUS.T <- signum(x) < 0` (44_sign.md R182). -/
def execIsneg (ra : Reg) (s : State) : Host.Outcome State Fault Refusal :=
  .next (s.setT (predIsneg (s.srcA ra)))

/-- "if x = 0: z <- 0, else: z <- U((2^256 - 1 - x) + 1)" (44_sign.md R183). -/
def negValue (x : Pattern) : Pattern := if x = 0 then 0 else neg256 x

/-- Write the negation, then raise Overflow if the source is MINP (44_sign.md R183). -/
def execNeg (rd ra : Reg) (s : State) : Host.Outcome State Fault Refusal :=
  .next (s.commitChecked rd (negValue (s.srcA ra)) (detectNeg (s.srcA ra)))

/-- `W[rd] <- abs256(x)`, never a fault (44_sign.md R184). -/
def execAbs (rd ra : Reg) (s : State) : Host.Outcome State Fault Refusal :=
  .next (s.setReg rd (abs256 (s.srcA ra)))

/-- `STATUS.T <- S(x) > S(y)` (44_sign.md R186). -/
def execSgt (ra rb : Reg) (s : State) : Host.Outcome State Fault Refusal :=
  .next (s.setT (predSgt (s.srcA ra) (s.srcB rb)))

/-- `STATUS.T <- S(x) >= S(y)` (44_sign.md R187). -/
def execSgte (ra rb : Reg) (s : State) : Host.Outcome State Fault Refusal :=
  .next (s.setT (predSgte (s.srcA ra) (s.srcB rb)))

end Sys2Proof.Machine
end

