-- ==== Sys2Proof/Machine/Dispatch.lean ====
section
/-! DEFINITION. exec: one arm per command, one direct call of its meaning ("execute row.rule", 30_encoding.md R77). -/

namespace Sys2Proof.Machine

def exec (i : Instr) (s : State) : Host.Outcome State Fault Refusal :=
  match i with
  | .ldw d => Sys2Proof.Machine.execLdw d s
  | .stw a => Sys2Proof.Machine.execStw a s
  | .mov d a => Sys2Proof.Machine.execMov d a s
  | .setu d => Sys2Proof.Machine.execSetu d s
  | .sets d => Sys2Proof.Machine.execSets d s
  | .add d a b => Sys2Proof.Machine.execAdd d a b s
  | .sub d a b => Sys2Proof.Machine.execSub d a b s
  | .mul d a b => Sys2Proof.Machine.execMul d a b s
  | .udiv d a b => Sys2Proof.Machine.execUdiv d a b s
  | .urem d a b => Sys2Proof.Machine.execUrem d a b s
  | .eq a b => Sys2Proof.Machine.execEq a b s
  | .gt a b => Sys2Proof.Machine.execGt a b s
  | .gte a b => Sys2Proof.Machine.execGte a b s
  | .isz a => Sys2Proof.Machine.execIsz a s
  | .not d a => Sys2Proof.Machine.execNot d a s
  | .and d a b => Sys2Proof.Machine.execAnd d a b s
  | .or d a b => Sys2Proof.Machine.execOr d a b s
  | .xor d a b => Sys2Proof.Machine.execXor d a b s
  | .shl d a n => Sys2Proof.Machine.execShl d a n s
  | .shr d a n => Sys2Proof.Machine.execShr d a n s
  | .signum a => Sys2Proof.Machine.execSignum a s
  | .isneg a => Sys2Proof.Machine.execIsneg a s
  | .neg d a => Sys2Proof.Machine.execNeg d a s
  | .abs d a => Sys2Proof.Machine.execAbs d a s
  | .sgt a b => Sys2Proof.Machine.execSgt a b s
  | .sgte a b => Sys2Proof.Machine.execSgte a b s
  | .sadd d a b => Sys2Proof.Machine.execSadd d a b s
  | .ssub d a b => Sys2Proof.Machine.execSsub d a b s
  | .smul d a b => Sys2Proof.Machine.execSmul d a b s
  | .div d a b => Sys2Proof.Machine.execDiv d a b s
  | .mod d a b => Sys2Proof.Machine.execMod d a b s
  | .quo d a b => Sys2Proof.Machine.execQuo d a b s
  | .rem d a b => Sys2Proof.Machine.execRem d a b s
  | .dive d a b => Sys2Proof.Machine.execDive d a b s
  | .mode d a b => Sys2Proof.Machine.execMode d a b s

end Sys2Proof.Machine
end

