-- ==== Sys2Proof/Machine/Transaction.lean ====
section
/-! DEFINITION. What becomes of one host action, with the tests in the order of 60_exceptions.md R259. -/

namespace Sys2Proof.Machine

/-- After the command's own effect: the response (20_memory.md R54). -/
def finish : Host.Outcome State Fault Refusal → Host.Outcome State Fault Refusal
  | .next t => .next t.respond
  | .fault r => .fault r
  | .refused r => .refused r

/-- A command that has been accepted (20_memory.md R53): (a) FAULT = 1: refused, nothing changes (R55); (b), (c) decode,
then either IllegalCommand (60_exceptions.md R255) or the command's rule (30_encoding.md R77). -/
def runAccepted (s : State) : Host.Outcome State Fault Refusal :=
  if s.status.fault then .next s.respond
  else
    match decode s.cmd with
    | .error _ => .next (s.raise .illegalCommand).respond
    | .ok i => finish (exec i s)

/-- The host's reset, with or without a command in flight: the command is abandoned, without `rsp_valid` (20_memory.md
R56, 70_reset_and_hazards.md R280). -/
def runReset (s : State) (_inFlight : Option Command) (rest : List HostAction) : Host.Outcome State Fault Refusal :=
  .next { s.takeReset with pending := rest }

/-- With nothing pending the core is idle and all state survives (60_exceptions.md R264). -/
def runIdle (s : State) : Host.Outcome State Fault Refusal := .next s

end Sys2Proof.Machine
end

