-- ==== Sys2Proof/Machine/Step.lean ====
section
/-! DEFINITION. One step of the core: the host's next action (20_memory.md R53: `step(state, cmd, DIN) = state'`). -/

namespace Sys2Proof.Machine

/-- One step: idle, a reset, or one command transaction. -/
def step (s : State) : Host.Outcome State Fault Refusal :=
  match s.pending with
  | [] => runIdle s
  | .reset inFlight :: rest => runReset s inFlight rest
  | .command c :: rest => runAccepted (s.accept c rest)

/-- `s` with the command word `w` as the host's next command, which is where `step` finds its next instruction. The DIN
value standing there stays (log 5). -/
def State.withFetchWord (s : State) (nbits w : Nat) : State := s.offerNext (BitVec.ofNat 32 (w % 2 ^ nbits))

end Sys2Proof.Machine
end

