-- ==== Sys2Proof/Machine/Limbs.lean ====
section
/-! DEFINITION. The reference limb algorithms of the spec: the second definition of the values that the commands write
(93_implementation_defined.md U11). No meaning calls them; that they give the same values is stated in Obligations. -/

namespace Sys2Proof.Machine

/-- The pattern with limbs `z3` (top) to `z0`: `z0 + 2^64*z1 + 2^128*z2 + 2^192*z3` (00_scope.md R11). -/
def ofLimbs (z3 z2 z1 z0 : Limb) : Pattern := z3 ++ z2 ++ z1 ++ z0

/-! ### Limb primitives (00_scope.md R14) -/

/-- `adc64(a, b, c) = (s, co)`. -/
def adc64 (a b : Limb) (c : Bool) : Limb × Bool :=
  (BitVec.ofNat 64 (a.toNat + b.toNat + c.toNat), decide (2 ^ 64 ≤ a.toNat + b.toNat + c.toNat))

/-- `sbb64(a, b, c) = (d, bo)`. -/
def sbb64 (a b : Limb) (c : Bool) : Limb × Bool :=
  (BitVec.ofInt 64 (a.toNat - b.toNat - c.toNat), decide ((a.toNat : Int) - b.toNat - c.toNat < 0))

/-- `mul64(a, b) = (hi, lo)`. -/
def mul64 (a b : Limb) : Limb × Limb :=
  (BitVec.ofNat 64 (a.toNat * b.toNat / 2 ^ 64), BitVec.ofNat 64 (a.toNat * b.toNat))

/-! ### Carry chain, borrow chain (41_unsigned_arith.md R121, R122) -/

/-- The four-stage carry chain; the carry out `c4` comes second. -/
def addLimbs (x y : Pattern) : Pattern × Bool :=
  let r0 := adc64 (limb x 0) (limb y 0) false
  let r1 := adc64 (limb x 1) (limb y 1) r0.2
  let r2 := adc64 (limb x 2) (limb y 2) r1.2
  let r3 := adc64 (limb x 3) (limb y 3) r2.2
  (ofLimbs r3.1 r2.1 r1.1 r0.1, r3.2)

/-- The four-stage borrow chain; the borrow out `b4` comes second. -/
def subLimbs (x y : Pattern) : Pattern × Bool :=
  let r0 := sbb64 (limb x 0) (limb y 0) false
  let r1 := sbb64 (limb x 1) (limb y 1) r0.2
  let r2 := sbb64 (limb x 2) (limb y 2) r1.2
  let r3 := sbb64 (limb x 3) (limb y 3) r2.2
  (ofLimbs r3.1 r2.1 r1.1 r0.1, r3.2)

/-! ### Schoolbook multiplier (41_unsigned_arith.md R123) -/

/-- The inner loop: one limb `a` of `x` times the limbs of `y`, added into the columns `zs` with a running carry. It ends
with the last column, so the carry out of column 3 is discarded. -/
def mulRow (a : Limb) : (ys zs : List Limb) → (carry : Limb) → List Limb
  | b :: ys, z :: zs, carry =>
    let p := mul64 a b
    let s1 := adc64 z p.2 false
    let s2 := adc64 s1.1 carry false
    s2.1 :: mulRow a ys zs (p.1 + BitVec.ofNat 64 s1.2.toNat + BitVec.ofNat 64 s2.2.toNat)
  | _, zs, _ => zs

/-- The outer loop: row `i` starts at column `i`. -/
def mulRows : (xs ys zs : List Limb) → List Limb
  | a :: xs, ys, zs =>
    match mulRow a ys zs 0 with
    | z :: rest => z :: mulRows xs ys rest
    | [] => []
  | [], _, zs => zs

/-- The four limbs, least significant first (00_scope.md R11). -/
def limbsOf (p : Pattern) : List Limb := [limb p 0, limb p 1, limb p 2, limb p 3]

/-- The ten partial products accumulated. -/
def mulLimbs (x y : Pattern) : Pattern :=
  match mulRows (limbsOf x) (limbsOf y) [0, 0, 0, 0] with
  | [z0, z1, z2, z3] => ofLimbs z3 z2 z1 z0
  | _ => 0

/-! ### Restoring divider (41_unsigned_arith.md R124) -/

/-- One step, for bit `i` of the dividend: `r <- 2*r + a[i]`, then subtract if it fits. -/
def divStep (a b : Pattern) (i : Nat) (qr : Nat × Nat) : Nat × Nat :=
  let r := 2 * qr.2 + (a.getLsbD i).toNat
  if b.toNat ≤ r then (qr.1 + 2 ^ i, r - b.toNat) else (qr.1, r)

/-- The steps for bits `n-1` down to 0. -/
def divSteps (a b : Pattern) : (n : Nat) → (qr : Nat × Nat) → Nat × Nat
  | 0, qr => qr
  | n + 1, qr => divSteps a b n (divStep a b n qr)

/-- 256 steps, one quotient bit each, most significant first. -/
def divLimbs (a b : Pattern) : Pattern × Pattern :=
  let qr := divSteps a b 256 (0, 0)
  (BitVec.ofNat 256 qr.1, BitVec.ofNat 256 qr.2)

/-! ### Comparators (42_compare.md R140 to R144) -/

/-- All four limbs equal. -/
def eqLimbs (x y : Pattern) : Bool :=
  limb x 0 == limb y 0 && limb x 1 == limb y 1 && limb x 2 == limb y 2 && limb x 3 == limb y 3

/-- The loop from limb `i-1` down to limb 0: the first differing limb decides. -/
def gtFrom (x y : Pattern) : (i : Nat) → Bool
  | 0 => false
  | i + 1 =>
    if (limb y i).toNat < (limb x i).toNat then true
    else if (limb x i).toNat < (limb y i).toNat then false
    else gtFrom x y i

/-- "for i in 3 downto 0". -/
def gtLimbs (x y : Pattern) : Bool := gtFrom x y 4

/-- The OR of the four limbs is zero. -/
def iszLimbs (x : Pattern) : Bool := (limb x 0 ||| limb x 1 ||| limb x 2 ||| limb x 3) == 0

/-- The three tests of 44_sign.md R181 on limbs, with the threshold 2^63 (90_conflicts.md C3). -/
def signumLimbs (x : Pattern) : Int :=
  if limb x 0 = 0 ∧ limb x 1 = 0 ∧ limb x 2 = 0 ∧ limb x 3 = 0 then 0
  else if (limb x 3).toNat < 2 ^ 63 then 1
  else -1

/-! ### Barrel shifter, for counts below 256 (43_bitwise_shift.md R166, R167) -/

/-- Limb `i` of the left shift by `n = 64*k + b`. -/
def shlLimb (x : Pattern) (n i : Nat) : Limb :=
  let k := n / 64
  let b := n % 64
  if i < k then 0
  else if b = 0 then limb x (i - k)
  else
    let lo := if k + 1 ≤ i then limb x (i - k - 1) >>> (64 - b) else 0
    limb x (i - k) <<< b ||| lo

/-- Limb `i` of the right shift by `n = 64*k + b`. -/
def shrLimb (x : Pattern) (n i : Nat) : Limb :=
  let k := n / 64
  let b := n % 64
  if 3 < i + k then 0
  else if b = 0 then limb x (i + k)
  else
    let hi := if i + k + 1 ≤ 3 then limb x (i + k + 1) <<< (64 - b) else 0
    limb x (i + k) >>> b ||| hi

/-- The left shifter's two stages. -/
def shlLimbs (x : Pattern) (n : Nat) : Pattern :=
  ofLimbs (shlLimb x n 3) (shlLimb x n 2) (shlLimb x n 1) (shlLimb x n 0)

/-- The right shifter's two stages. -/
def shrLimbs (x : Pattern) (n : Nat) : Pattern :=
  ofLimbs (shrLimb x n 3) (shrLimb x n 2) (shrLimb x n 1) (shrLimb x n 0)

end Sys2Proof.Machine
end

