-- ==== Sys2Proof/Safety.lean ====
section
/-! DEFINITION. The terms that claims use: frames, fault entry, encodings, a well-formed STATUS, the ends of a run. -/

namespace Sys2Proof

open Machine

/-! ### Frames: what a command leaves as it was -/

/-- Every register, and its mark, as before. -/
def SameRegs (s t : State) : Prop := ∀ r : Reg, t.reg r = s.reg r ∧ t.marked r = s.marked r

/-- DOUT, and its mark, as before. -/
def SameDout (s t : State) : Prop := t.dout = s.dout ∧ t.doutWritten = s.doutWritten

/-- The sampled inputs, the host's list and the counters as before. -/
def SameHost (s t : State) : Prop :=
  t.cmd = s.cmd ∧ t.din = s.din ∧ t.pending = s.pending ∧ t.k = s.k ∧ t.rsp = s.rsp

/-- The architectural state of 10_state.md R20, and the marks of R32, as before. -/
def SameCore (s t : State) : Prop := SameRegs s t ∧ t.status = s.status ∧ t.fcmd = s.fcmd ∧ SameDout s t

/-- `W[rd]` is `v` and marked; every other register as before. -/
def RegWritten (rd : Reg) (v : Pattern) (s t : State) : Prop :=
  t.reg rd = v ∧ t.marked rd = true ∧ ∀ r : Reg, r ≠ rd → t.reg r = s.reg r ∧ t.marked r = s.marked r

/-- `W[rd] <- v` and nothing else. -/
def WritesOnlyReg (rd : Reg) (v : Pattern) (s t : State) : Prop :=
  RegWritten rd v s t ∧ t.status = s.status ∧ t.fcmd = s.fcmd ∧ SameDout s t ∧ SameHost s t

/-- `STATUS.T <- b` and nothing else. -/
def WritesOnlyT (b : Bool) (s t : State) : Prop :=
  t.status.t = b ∧ t.status.fault = s.status.fault ∧ t.status.cause = s.status.cause ∧ t.status.sg = s.status.sg ∧
    t.status.reserved = s.status.reserved ∧ t.fcmd = s.fcmd ∧ SameRegs s t ∧ SameDout s t ∧ SameHost s t

/-- `STATUS.SG <- v` and nothing else. -/
def WritesOnlySG (v : BitVec 2) (s t : State) : Prop :=
  t.status.sg = v ∧ t.status.fault = s.status.fault ∧ t.status.cause = s.status.cause ∧ t.status.t = s.status.t ∧
    t.status.reserved = s.status.reserved ∧ t.fcmd = s.fcmd ∧ SameRegs s t ∧ SameDout s t ∧ SameHost s t

/-- `DOUT <- v` and nothing else. -/
def WritesOnlyDout (v : Pattern) (s t : State) : Prop :=
  t.dout = v ∧ t.doutWritten = true ∧ t.status = s.status ∧ t.fcmd = s.fcmd ∧ SameRegs s t ∧ SameHost s t

/-- What fault entry writes (60_exceptions.md R256): FAULT, CAUSE, FCMD; T, SG and bit 7 as before. -/
def FaultLatched (c : Cause) (s t : State) : Prop :=
  t.status.fault = true ∧ t.status.cause = c.code ∧ t.fcmd = s.cmd ∧
    t.status.t = s.status.t ∧ t.status.sg = s.status.sg ∧ t.status.reserved = s.status.reserved

/-- Fault entry and nothing else. -/
def FaultsOnly (c : Cause) (s t : State) : Prop :=
  FaultLatched c s t ∧ SameRegs s t ∧ SameDout s t ∧ SameHost s t

/-- `W[rd] <- v`, then fault entry, and nothing else (45_signed_checked.md R201). -/
def WritesRegThenFaults (rd : Reg) (v : Pattern) (c : Cause) (s t : State) : Prop :=
  RegWritten rd v s t ∧ FaultLatched c s t ∧ SameDout s t ∧ SameHost s t

/-! ### Encodings, with the words as sums (30_encoding.md R70, R71) -/

/-- `cmd = op*2^24 + rd*2^20 + ra*2^16 + rb*2^12 + n`. -/
def wordOf (op : Nat) (rd ra rb : Reg) (n : Nat) : CmdWord :=
  BitVec.ofNat 32 (op * 2 ^ 24 + rd.val * 2 ^ 20 + ra.val * 2 ^ 16 + rb.val * 2 ^ 12 + n)

/-- The words with opcode `op` decode as `c` says where `mbz` holds of their fields, and are illegal where not. -/
def EncodedAs (op : Nat) (mbz : Reg → Reg → Reg → Nat → Prop) (c : Reg → Reg → Reg → Nat → Instr) : Prop :=
  ∀ (rd ra rb : Reg) (n : Nat), n < 4096 →
    (mbz rd ra rb n → decode (wordOf op rd ra rb n) = .ok (c rd ra rb n)) ∧
      (¬ mbz rd ra rb n → legal (wordOf op rd ra rb n) = false)

/-- Format R3: `n` must be zero. -/
def EncodedR3 (op : Nat) (c : Reg → Reg → Reg → Instr) : Prop :=
  EncodedAs op (fun _ _ _ n => n = 0) (fun d a b _ => c d a b)

/-- Format R2: `rb`, `n` must be zero. -/
def EncodedR2 (op : Nat) (c : Reg → Reg → Instr) : Prop :=
  EncodedAs op (fun _ _ b n => b = 0 ∧ n = 0) (fun d a _ _ => c d a)

/-- Format RI: `rb` must be zero. -/
def EncodedRI (op : Nat) (c : Reg → Reg → Nat → Instr) : Prop :=
  EncodedAs op (fun _ _ b _ => b = 0) (fun d a _ n => c d a n)

/-- Format C2: `rd`, `n` must be zero. -/
def EncodedC2 (op : Nat) (c : Reg → Reg → Instr) : Prop :=
  EncodedAs op (fun d _ _ n => d = 0 ∧ n = 0) (fun _ a b _ => c a b)

/-- Format C1: `rd`, `rb`, `n` must be zero. -/
def EncodedC1 (op : Nat) (c : Reg → Instr) : Prop :=
  EncodedAs op (fun d _ b n => d = 0 ∧ b = 0 ∧ n = 0) (fun _ a _ _ => c a)

/-- Format D1: `ra`, `rb`, `n` must be zero. -/
def EncodedD1 (op : Nat) (c : Reg → Instr) : Prop :=
  EncodedAs op (fun _ a b n => a = 0 ∧ b = 0 ∧ n = 0) (fun d _ _ _ => c d)

/-! ### STATUS, FCMD and their invariants -/

/-- "Never produced" of 95_test_vectors.md 2.9 and 93_implementation_defined.md U5, turned round: bit 7 is 0, SG is not
0b10, CAUSE is at most 4, and FAULT = 1 exactly when CAUSE is not 0 (10_state.md R26, 60_exceptions.md R251). -/
def Status.WellFormed (st : Status) : Prop :=
  st.reserved = false ∧ st.sg ≠ 0b10#2 ∧ st.cause.toNat ≤ 4 ∧ (st.fault = true ↔ st.cause ≠ 0)

/-- A well-formed STATUS, and FCMD reads 0 while FAULT = 0 (10_state.md R28). -/
def StatusInvariant (s : State) : Prop :=
  Status.WellFormed s.status ∧ (s.status.fault = false → s.fcmd = 0)

/-- The "raised by" column of 60_exceptions.md R251 for a legal command. -/
def Machine.Cause.raisedBy : Cause → Instr → Bool
  | .overflow, i => i.mnemonic ∈ ["SADD", "SSUB", "SMUL", "NEG"]
  | .underflow, i => i.mnemonic ∈ ["SADD", "SSUB", "SMUL"]
  | .divideByZero, i => i.mnemonic ∈ ["UDIV", "UREM", "DIV", "MOD", "QUO", "REM", "DIVE", "MODE"]
  | .illegalCommand, _ => false

/-- Cause `c` can be the cause of a fault of the command word `w` (60_exceptions.md R251 to R255). -/
def Machine.Cause.explains (c : Cause) (w : CmdWord) : Prop :=
  match decode w with
  | .ok i => c.raisedBy i = true
  | .error _ => c = .illegalCommand

/-- "CAUSE and FCMD always describe the first fault" (60_exceptions.md R256): in a fault state CAUSE is the code of a cause
that the word in FCMD can raise. -/
def FaultExplained (s : State) : Prop :=
  s.status.fault = true → ∃ c : Cause, s.status.cause = c.code ∧ c.explains s.fcmd

/-! ### Ranges and runs -/

/-- The signed range [-2^255, 2^255 - 1] (00_scope.md R12). -/
def InSignedRange (v : Int) : Prop := -(2 ^ 255) ≤ v ∧ v ≤ 2 ^ 255 - 1

/-- The host's list holds commands only: no reset in mid-list (70_reset_and_hazards.md R287). -/
def OnlyCommands (l : List HostAction) : Prop := ∀ a ∈ l, ∃ c, a = .command c

/-- A safe state is one without a latched fault (60_exceptions.md R250: all faults are fatal). -/
def Safe (s : State) : Prop := s.status.fault = false

/-- "Completed": every command has been accepted and answered, and FAULT = 0 (70_reset_and_hazards.md R287). -/
def Completed (s : State) : Prop := s.pending = [] ∧ Safe s

/-- "Faulted": a fault state, never a final one (70_reset_and_hazards.md R287). -/
def Faulted (s : State) : Prop := s.status.fault = true

end Sys2Proof
end

