-- ==== Sys2Proof/Certificates/Slice0/Obligations.lean ====
section
/-! DEFINITION. The statements for the provers. In every statement about a command, `x` is what it reads through `ra` and
`y` what it reads through `rb`, whatever they are: a register not yet written reads as a free value (log 2). -/

open Sys2Proof Sys2Proof.Machine

/-! ### Reset, the transaction, the run -/

/-- 10_state.md R31: STATUS and FCMD are zero after reset and nothing is written. The zero storage behind the clear marks
is the model's choice (log 1) and is not claimed. -/
def Obligations.ResetStateIsAsTabulated : Prop :=
  State.reset.statusPort = 0x00#8 ∧ State.reset.status.fault = false ∧ State.reset.status.cause = 0 ∧
    State.reset.status.t = false ∧ State.reset.status.sg = 0b00#2 ∧ State.reset.status.reserved = false ∧
    State.reset.fcmdPort = 0 ∧ (∀ r : Reg, State.reset.marked r = false) ∧ State.reset.doutWritten = false

/-- 20_memory.md R56, 70_reset_and_hazards.md R280: a reset from any state, also with a command in flight, gives no
response and leaves STATUS and FCMD zero and nothing written; and a step that leaves the fault state is a reset. The
clauses on the model's own bookkeeping are the model's choices: `k` starts over (R287; log 9, DEDUCED), `cmd` and `din`
stay, so an in-flight word is not kept (log 9, DESIGN CHOICE), and the counter `rsp` is not cleared (log 3, DESIGN
CHOICE). -/
def Obligations.ResetActionGivesResetState : Prop :=
  (∀ (s : State) (c : Option Command) (rest : List HostAction), s.pending = .reset c :: rest →
    ∃ t, step s = .next t ∧ t.statusPort = 0x00#8 ∧ t.fcmdPort = 0 ∧ (∀ r : Reg, t.marked r = false) ∧
      t.doutWritten = false ∧ t.rsp = s.rsp ∧ t.k = 0 ∧ t.pending = rest ∧ t.cmd = s.cmd ∧ t.din = s.din) ∧
  (∀ s t : State, step s = .next t → s.status.fault = true → t.status.fault = false →
    ∃ c rest, s.pending = .reset c :: rest)

/-- 10_state.md R32: a register that has been written reads as what was written, until it is written again; one that has
not been written since the last reset reads as a free value of its own command and port (log 2). -/
def Obligations.ReadsFollowTheWrittenMark : Prop :=
  ∀ (s : State) (port : Nat) (r : Reg) (v : Pattern),
    (s.setReg r v).read port r = v ∧
    (∀ q : Reg, q ≠ r → (s.setReg r v).read port q = s.read port q) ∧
    (s.marked r = true → s.read port r = s.reg r) ∧
    (s.marked r = false → s.read port r = Config.unwritten s.rsp port) ∧
    ∀ q : Reg, s.takeReset.read port q = Config.unwritten s.rsp port

/-- 20_memory.md R53 (b), 30_encoding.md R77: a legal command word accepted while FAULT = 0 runs as the decoded
instruction, on the state with `cmd` and `din` sampled; then comes the response. -/
def Obligations.StepRunsDecodedInstruction : Prop :=
  ∀ (s : State) (c : Command) (rest : List HostAction) (i : Instr),
    s.pending = .command c :: rest → s.status.fault = false → decode c.word = .ok i →
    i.wf = true ∧ step s = finish (exec i { s with cmd := c.word, din := c.din, pending := rest })

/-- 60_exceptions.md R255: an illegal word raises IllegalCommand; nothing but FAULT, CAUSE and FCMD changes in the core. -/
def Obligations.IllegalCommandChangesOnlyTheLatch : Prop :=
  ∀ (s : State) (c : Command) (rest : List HostAction),
    s.pending = .command c :: rest → s.status.fault = false → legal c.word = false →
    ∃ t, step s = .next t ∧ t.status.fault = true ∧ t.status.cause = 4 ∧ t.fcmd = c.word ∧
      t.status.t = s.status.t ∧ t.status.sg = s.status.sg ∧ t.status.reserved = s.status.reserved ∧
      SameRegs s t ∧ SameDout s t ∧ t.pending = rest ∧ t.rsp = s.rsp + 1 ∧ t.k = s.k

/-- 20_memory.md R55: while FAULT = 1 every command, legal or not, is accepted and answered and changes nothing. -/
def Obligations.FaultRefusesEveryCommand : Prop :=
  ∀ (s : State) (c : Command) (rest : List HostAction),
    s.pending = .command c :: rest → s.status.fault = true →
    ∃ t, step s = .next t ∧ SameCore s t ∧ t.pending = rest ∧ t.rsp = s.rsp + 1 ∧ t.k = s.k

/-- 60_exceptions.md R258: over any number of steps without a reset, a latched fault stays and freezes the core. -/
def Obligations.FaultFreezesTheCoreUntilReset : Prop :=
  ∀ (n : Nat) (s : State), s.status.fault = true → OnlyCommands s.pending →
    ∃ t, core.run n s = .next t ∧ t.status.fault = true ∧ SameCore s t ∧ t.k = s.k

/-- 20_memory.md R53: the step is total: every state has a next state, and so has every command in every state. With
nothing pending nothing changes (60_exceptions.md R264). -/
def Obligations.EveryStepHasANextState : Prop :=
  (∀ s : State, ∃ t, step s = .next t) ∧ (∀ (i : Instr) (s : State), ∃ t, exec i s = .next t) ∧
    ∀ s : State, s.pending = [] → step s = .next s

/-- 20_memory.md R52, R55, 10_state.md R25: each accepted command samples `cmd` and `din`, is answered once, and moves
`k` on exactly when FAULT = 0 after it. -/
def Obligations.EachCommandIsAnsweredOnce : Prop :=
  ∀ (s t : State) (c : Command) (rest : List HostAction),
    s.pending = .command c :: rest → step s = .next t →
    t.rsp = s.rsp + 1 ∧ t.pending = rest ∧ t.cmd = c.word ∧ t.din = c.din ∧
      (t.status.fault = true → t.k = s.k) ∧ (t.status.fault = false → t.k = s.k + 1)

/-- 70_reset_and_hazards.md R287: a finite list of commands ends completed, with every command answered and `k` past the
list, or faulted, with `k` at the faulting command and its word in FCMD. -/
def Obligations.FiniteListEndsCompletedOrFaulted : Prop :=
  ∀ s : State, OnlyCommands s.pending → s.status.fault = false →
    ∃ t, core.run s.pending.length s = .next t ∧ t.pending = [] ∧ t.rsp = s.rsp + s.pending.length ∧
      ((Completed t ∧ t.k = s.k + s.pending.length) ∨
       (Faulted t ∧ ∃ j c, j < s.pending.length ∧ t.k = s.k + j ∧ s.pending[j]? = some (.command c) ∧ t.fcmd = c.word))

/-- 10_state.md R26: the places of the fields in the `status` byte; 20_memory.md R54, 60_exceptions.md R261: the ports
show the state, `fault` is FAULT, and `dout` is DOUT once an STW has written it. Before that (10_state.md R32,
93_implementation_defined.md U2) the last clause has `dout` show a free value, which is the model's choice (log 2, DESIGN
CHOICE). -/
def Obligations.OutputPortsShowTheState : Prop :=
  ∀ s : State,
    s.statusPort.extractLsb' 0 1 = BitVec.ofBool s.status.fault ∧
    s.statusPort.extractLsb' 1 3 = s.status.cause ∧
    s.statusPort.extractLsb' 4 1 = BitVec.ofBool s.status.t ∧
    s.statusPort.extractLsb' 5 2 = s.status.sg ∧
    s.statusPort.extractLsb' 7 1 = BitVec.ofBool s.status.reserved ∧
    s.fcmdPort = s.fcmd ∧ s.faultPort = s.status.fault ∧
    (∀ look : Nat, s.doutWritten = true → s.doutPort look = s.dout) ∧
    ∀ look : Nat, s.doutWritten = false → s.doutPort look = Config.unwrittenDout s.rsp look

/-! ### Encoding -/

/-- Decoding the word of a well-formed instruction gives it back, with every operand at every value. -/
def Obligations.DecodeOfEncodeIsTheInstruction : Prop := ∀ i : Instr, i.wf = true → decode (encode i) = .ok i

/-- The other direction: a word that decodes is the word of what it decodes to, and that is well formed. -/
def Obligations.EncodeOfDecodeIsTheWord : Prop :=
  ∀ (w : CmdWord) (i : Instr), decode w = .ok i → encode i = w ∧ i.wf = true

/-- 30_encoding.md R76: a word is legal exactly when `(w AND mask) = match` for a row of the table, and it then matches
one row only; the all-zero word is illegal. -/
def Obligations.LegalWordsMatchExactlyOneRow : Prop :=
  (∀ w : CmdWord, legal w = true ↔ ∃ row ∈ opTable, w &&& row.fmt.mask = row.pattern) ∧
    (∀ w : CmdWord, (opTable.filter (fun row => row.matches w)).length ≤ 1) ∧ opTable.length = 35 ∧
    legal 0x00000000#32 = false

/-- A few words of 95_test_vectors.md 2.8 and of the rules' own examples decode to the instructions they stand for. -/
def Obligations.SpecWordsDecodeAsListed : Prop :=
  decode 0x01f00000#32 = .ok (.ldw 15) ∧ decode 0x02030000#32 = .ok (.stw 3) ∧
    decode 0x10312000#32 = .ok (.add 3 1 2) ∧ decode 0x20012000#32 = .ok (.eq 1 2) ∧
    decode 0x35ab0100#32 = .ok (.shr 10 11 256) ∧ decode 0x43210000#32 = .ok (.abs 2 1) ∧
    decode 0x52312000#32 = .ok (.smul 3 1 2) ∧ decode 0x65312000#32 = .ok (.mode 3 1 2) ∧
    legal 0x10312001#32 = false ∧ legal 0x06000000#32 = false

/-! ### Invariants and whole-machine rules -/

/-- Both invariants hold right after reset. -/
def Obligations.ResetMeetsTheInvariants : Prop := StatusInvariant State.reset ∧ FaultExplained State.reset

/-- 10_state.md R26, R28: no step produces a reserved value of STATUS, a FAULT without a CAUSE or a CAUSE without FAULT,
or a non-zero FCMD without a fault. -/
def Obligations.StepKeepsStatusInvariant : Prop :=
  ∀ s t : State, StatusInvariant s → step s = .next t → StatusInvariant t

/-- 60_exceptions.md R251, R256: in every fault state CAUSE is one that the command word in FCMD can raise. -/
def Obligations.StepKeepsFaultExplained : Prop :=
  ∀ s t : State, FaultExplained s → step s = .next t → FaultExplained t

/-- 10_state.md R27, R28, R29: T is written only by the seven predicate commands, SG only by SIGNUM, DOUT only by STW, bit
7 by none; FCMD changes only with a fault entry. -/
def Obligations.FlagsAndDoutChangeOnlyWhereComputed : Prop :=
  ∀ (i : Instr) (s t : State), exec i s = .next t →
    (i.target ≠ .flagT → t.status.t = s.status.t) ∧ (i.target ≠ .flagSG → t.status.sg = s.status.sg) ∧
    (i.target ≠ .dout → SameDout s t) ∧ t.status.reserved = s.status.reserved ∧
    (t.fcmd = s.fcmd ∧ t.status.fault = s.status.fault ∧ t.status.cause = s.status.cause ∨
      t.fcmd = s.cmd ∧ t.status.fault = true)

/-- 10_state.md R23: a command writes at most one register, and only `rd`; the nine commands without `rd` write none. -/
def Obligations.OnlyTheDestinationRegisterChanges : Prop :=
  ∀ (i : Instr) (s t : State), exec i s = .next t →
    (∀ r : Reg, i.target ≠ .reg r → t.reg r = s.reg r ∧ t.marked r = s.marked r) ∧ SameHost s t

/-- 10_state.md R23, 30_encoding.md R73: a command's results depend on its source registers and nothing in the other
registers; and only LDW, SETU and SETS look at DIN. The sources have been written: an unwritten one has no value for two
runs to agree on (R32). -/
def Obligations.ResultsDependOnlyOnSources : Prop :=
  ∀ (i : Instr) (s s' t t' : State),
    (∀ r ∈ i.sources, s.marked r = true ∧ s'.marked r = true ∧ s'.reg r = s.reg r) →
    s'.status = s.status → s'.fcmd = s.fcmd → s'.cmd = s.cmd → SameDout s s' →
    (i.format = .d1 → s'.din = s.din) →
    exec i s = .next t → exec i s' = .next t' →
    t'.status = t.status ∧ t'.fcmd = t.fcmd ∧ SameDout t t' ∧
      ∀ r : Reg, i.target = .reg r →
        (t'.reg r = t.reg r ∧ t'.marked r = t.marked r) ∨
        (t.status.fault = true ∧ t.reg r = s.reg r ∧ t'.reg r = s'.reg r)

/-- 93_implementation_defined.md U16, 30_encoding.md R73: SETU and SETS ignore DIN[255:64]. -/
def Obligations.HighDinBitsAreIgnored : Prop :=
  ∀ (rd : Reg) (s s' : State), (∀ r : Reg, s'.reg r = s.reg r) →
    s'.din.extractLsb' 0 64 = s.din.extractLsb' 0 64 →
    ∃ t t' u u', exec (.setu rd) s = .next t ∧ exec (.setu rd) s' = .next t' ∧
      exec (.sets rd) s = .next u ∧ exec (.sets rd) s' = .next u' ∧
      (∀ r : Reg, t'.reg r = t.reg r) ∧ ∀ r : Reg, u'.reg r = u.reg r

/-! ### Values -/

/-- 00_scope.md R12: the signed view, its range, its extremes, and `S(U(v)) = v`. -/
def Obligations.SignedViewIsTwosComplement : Prop :=
  (∀ p : Pattern, signed p = (if p.getLsbD 255 = true then (p.toNat : Int) - 2 ^ 256 else (p.toNat : Int)) ∧
      InSignedRange (signed p) ∧ toPattern (signed p) = p) ∧
    (∀ v : Int, InSignedRange v → signed (toPattern v) = v) ∧
    (∀ v : Int, ((toPattern v).toNat : Int) = v % 2 ^ 256) ∧
    signed minP = -(2 ^ 255) ∧ signed maxS = 2 ^ 255 - 1 ∧ signed maxU = -1

/-- 00_scope.md R11, 20_memory.md R58: a pattern is the sum of its limbs, least significant first, and of its bytes and
32-bit words, most significant first. -/
def Obligations.LimbsBytesAndWordsRebuildThePattern : Prop :=
  ∀ p : Pattern,
    ofLimbs (limb p 3) (limb p 2) (limb p 1) (limb p 0) = p ∧
    p.toNat = (limb p 0).toNat + 2 ^ 64 * (limb p 1).toNat + 2 ^ 128 * (limb p 2).toNat + 2 ^ 192 * (limb p 3).toNat ∧
    (be32 p).length = 32 ∧ p.toNat = (be32 p).foldl (fun acc b => 256 * acc + b.toNat) 0 ∧
    p.toNat = ((List.finRange 8).map (word32 p)).foldl (fun acc w => 2 ^ 32 * acc + w.toNat) 0

/-! ### Construction and movement -/

/-- 40_construct_move.md R101. -/
def Obligations.LdwLoadsDin : Prop :=
  EncodedD1 0x01 Instr.ldw ∧
    ∀ (rd : Reg) (s : State), ∃ t, exec (.ldw rd) s = .next t ∧ WritesOnlyReg rd s.din s t

/-- 40_construct_move.md R102. -/
def Obligations.StwStoresToDout : Prop :=
  EncodedC1 0x02 Instr.stw ∧
    ∀ (ra : Reg) (s : State), ∃ t, exec (.stw ra) s = .next t ∧ WritesOnlyDout (s.srcA ra) s t ∧
      ∀ look : Nat, t.doutPort look = s.srcA ra

/-- 40_construct_move.md R103: the copy, and its independence: a later write of one register leaves the other as it is. -/
def Obligations.MovCopies : Prop :=
  EncodedR2 0x03 Instr.mov ∧
    ∀ (rd ra : Reg) (s : State), ∃ t, exec (.mov rd ra) s = .next t ∧ WritesOnlyReg rd (s.srcA ra) s t ∧
      (ra ≠ rd → t.reg ra = s.reg ra ∧
        ∀ v : Pattern, (t.setReg ra v).reg rd = t.reg rd ∧ (t.setReg rd v).reg ra = t.reg ra)

/-- 40_construct_move.md R104: limb 0 is `v`, the others zero. -/
def Obligations.SetuZeroExtends : Prop :=
  EncodedD1 0x04 Instr.setu ∧
    ∀ (rd : Reg) (s : State), ∃ t v, exec (.setu rd) s = .next t ∧ WritesOnlyReg rd v s t ∧
      v = ofLimbs 0 0 0 (limb s.din 0) ∧ v.toNat = s.din.toNat % 2 ^ 64 ∧ signed v = (v.toNat : Int)

/-- 40_construct_move.md R105: limb 0 is `v`, the others its sign; as a signed number it is the 64-bit signed `v`. -/
def Obligations.SetsSignExtends : Prop :=
  EncodedD1 0x05 Instr.sets ∧
    ∀ (rd : Reg) (s : State), ∃ t v, exec (.sets rd) s = .next t ∧ WritesOnlyReg rd v s t ∧
      v = (if s.din.getLsbD 63 = true then
            ofLimbs 0xffffffffffffffff#64 0xffffffffffffffff#64 0xffffffffffffffff#64 (limb s.din 0)
          else ofLimbs 0 0 0 (limb s.din 0)) ∧
      signed v = (limb s.din 0).toInt

/-! ### Unsigned arithmetic -/

/-- 41_unsigned_arith.md R121, value and carry chain. -/
def Obligations.AddWrapsAndEqualsCarryChain : Prop :=
  EncodedR3 0x10 Instr.add ∧
    ∀ (rd ra rb : Reg) (s : State), ∃ t v, exec (.add rd ra rb) s = .next t ∧ WritesOnlyReg rd v s t ∧
      v.toNat = ((s.srcA ra).toNat + (s.srcB rb).toNat) % 2 ^ 256 ∧ v = (addLimbs (s.srcA ra) (s.srcB rb)).1

/-- 41_unsigned_arith.md R122, value and borrow chain. -/
def Obligations.SubWrapsAndEqualsBorrowChain : Prop :=
  EncodedR3 0x11 Instr.sub ∧
    ∀ (rd ra rb : Reg) (s : State), ∃ t v, exec (.sub rd ra rb) s = .next t ∧ WritesOnlyReg rd v s t ∧
      (v.toNat : Int) = ((s.srcA ra).toNat - (s.srcB rb).toNat : Int) % 2 ^ 256 ∧
      v = (subLimbs (s.srcA ra) (s.srcB rb)).1

/-- 41_unsigned_arith.md R123, value and the ten partial products. -/
def Obligations.MulWrapsAndEqualsSchoolbook : Prop :=
  EncodedR3 0x12 Instr.mul ∧
    ∀ (rd ra rb : Reg) (s : State), ∃ t v, exec (.mul rd ra rb) s = .next t ∧ WritesOnlyReg rd v s t ∧
      v.toNat = (s.srcA ra).toNat * (s.srcB rb).toNat % 2 ^ 256 ∧ v = mulLimbs (s.srcA ra) (s.srcB rb)

/-- 41_unsigned_arith.md R124: the divider's function, its uniqueness, and the restoring algorithm. -/
def Obligations.DividerIsUdivremAndRestoring : Prop :=
  ∀ a b : Pattern, b ≠ 0 →
    a.toNat = (udivQuo a b).toNat * b.toNat + (udivRem a b).toNat ∧ (udivRem a b).toNat < b.toNat ∧
    (∀ q r : Nat, a.toNat = q * b.toNat + r → r < b.toNat → q = (udivQuo a b).toNat ∧ r = (udivRem a b).toNat) ∧
    divLimbs a b = (udivQuo a b, udivRem a b)

/-- 41_unsigned_arith.md R125. -/
def Obligations.UdivWritesQuotientOrFaults : Prop :=
  EncodedR3 0x13 Instr.udiv ∧
    ∀ (rd ra rb : Reg) (s : State),
      (s.srcB rb = 0 → ∃ t, exec (.udiv rd ra rb) s = .next t ∧ FaultsOnly .divideByZero s t) ∧
      (s.srcB rb ≠ 0 → ∃ t v, exec (.udiv rd ra rb) s = .next t ∧ WritesOnlyReg rd v s t ∧
        v.toNat = (s.srcA ra).toNat / (s.srcB rb).toNat)

/-- 41_unsigned_arith.md R126. -/
def Obligations.UremWritesRemainderOrFaults : Prop :=
  EncodedR3 0x14 Instr.urem ∧
    ∀ (rd ra rb : Reg) (s : State),
      (s.srcB rb = 0 → ∃ t, exec (.urem rd ra rb) s = .next t ∧ FaultsOnly .divideByZero s t) ∧
      (s.srcB rb ≠ 0 → ∃ t v, exec (.urem rd ra rb) s = .next t ∧ WritesOnlyReg rd v s t ∧
        v.toNat = (s.srcA ra).toNat % (s.srcB rb).toNat ∧ v.toNat < (s.srcB rb).toNat ∧
        (udivQuo (s.srcA ra) (s.srcB rb)).toNat * (s.srcB rb).toNat + v.toNat = (s.srcA ra).toNat)

/-! ### Unsigned comparison -/

/-- 42_compare.md R141, value and limbs. -/
def Obligations.EqComparesAllLimbs : Prop :=
  EncodedC2 0x20 Instr.eq ∧
    ∀ (ra rb : Reg) (s : State), ∃ t b, exec (.eq ra rb) s = .next t ∧ WritesOnlyT b s t ∧
      (b = true ↔ s.srcA ra = s.srcB rb) ∧ b = eqLimbs (s.srcA ra) (s.srcB rb)

/-- 42_compare.md R142, value and the loop from the top limb. -/
def Obligations.GtComparesFromTheTopLimb : Prop :=
  EncodedC2 0x21 Instr.gt ∧
    ∀ (ra rb : Reg) (s : State), ∃ t b, exec (.gt ra rb) s = .next t ∧ WritesOnlyT b s t ∧
      (b = true ↔ (s.srcA ra).toNat > (s.srcB rb).toNat) ∧ b = gtLimbs (s.srcA ra) (s.srcB rb)

/-- 42_compare.md R143: `x >= y`, which is GT or EQ, and not GT of the swapped operands. -/
def Obligations.GteIsGtOrEq : Prop :=
  EncodedC2 0x22 Instr.gte ∧
    ∀ (ra rb : Reg) (s : State), ∃ t b, exec (.gte ra rb) s = .next t ∧ WritesOnlyT b s t ∧
      (b = true ↔ (s.srcA ra).toNat ≥ (s.srcB rb).toNat) ∧
      b = (gtLimbs (s.srcA ra) (s.srcB rb) || eqLimbs (s.srcA ra) (s.srcB rb)) ∧
      b = !gtLimbs (s.srcB rb) (s.srcA ra)

/-- 42_compare.md R144, value and limbs. -/
def Obligations.IszTestsAllLimbs : Prop :=
  EncodedC1 0x23 Instr.isz ∧
    ∀ (ra : Reg) (s : State), ∃ t b, exec (.isz ra) s = .next t ∧ WritesOnlyT b s t ∧
      (b = true ↔ s.srcA ra = 0) ∧ b = iszLimbs (s.srcA ra)

/-- 42_compare.md R145: trichotomy, GTE from GT, and GT as the borrow out of `y - x`. -/
def Obligations.ComparisonLaws : Prop :=
  ∀ x y : Pattern,
    (predGt x y = true ∧ predGt y x = false ∧ predEq x y = false ∨
      predGt x y = false ∧ predGt y x = true ∧ predEq x y = false ∨
      predGt x y = false ∧ predGt y x = false ∧ predEq x y = true) ∧
    predGte x y = !predGt y x ∧ predGt x y = (subLimbs y x).2

/-! ### Bitwise and shift -/

/-- 43_bitwise_shift.md R161 to R164, bit by bit. -/
def Obligations.BitwiseCommandsActBitByBit : Prop :=
  EncodedR2 0x30 Instr.not ∧ EncodedR3 0x31 Instr.and ∧ EncodedR3 0x32 Instr.or ∧ EncodedR3 0x33 Instr.xor ∧
    ∀ (rd ra rb : Reg) (s : State),
      (∃ t v, exec (.not rd ra) s = .next t ∧ WritesOnlyReg rd v s t ∧ v.toNat = 2 ^ 256 - 1 - (s.srcA ra).toNat ∧
        ∀ i < 256, v.getLsbD i = !(s.srcA ra).getLsbD i) ∧
      (∃ t v, exec (.and rd ra rb) s = .next t ∧ WritesOnlyReg rd v s t ∧
        ∀ i < 256, v.getLsbD i = ((s.srcA ra).getLsbD i && (s.srcB rb).getLsbD i)) ∧
      (∃ t v, exec (.or rd ra rb) s = .next t ∧ WritesOnlyReg rd v s t ∧
        ∀ i < 256, v.getLsbD i = ((s.srcA ra).getLsbD i || (s.srcB rb).getLsbD i)) ∧
      ∃ t v, exec (.xor rd ra rb) s = .next t ∧ WritesOnlyReg rd v s t ∧
        ∀ i < 256, v.getLsbD i = ((s.srcA ra).getLsbD i ^^ (s.srcB rb).getLsbD i)

/-- 43_bitwise_shift.md R166, value and the two-stage shifter. -/
def Obligations.ShlShiftsInZeros : Prop :=
  EncodedRI 0x34 Instr.shl ∧
    ∀ (rd ra : Reg) (n : Nat) (s : State), ∃ t v, exec (.shl rd ra n) s = .next t ∧ WritesOnlyReg rd v s t ∧
      (256 ≤ n → v = 0) ∧
      (n < 256 → v.toNat = (s.srcA ra).toNat * 2 ^ n % 2 ^ 256 ∧ v = shlLimbs (s.srcA ra) n)

/-- 43_bitwise_shift.md R167, value and the two-stage shifter: logical in both views. -/
def Obligations.ShrShiftsInZeros : Prop :=
  EncodedRI 0x35 Instr.shr ∧
    ∀ (rd ra : Reg) (n : Nat) (s : State), ∃ t v, exec (.shr rd ra n) s = .next t ∧ WritesOnlyReg rd v s t ∧
      (256 ≤ n → v = 0) ∧
      (n < 256 → v.toNat = (s.srcA ra).toNat / 2 ^ n ∧ v = shrLimbs (s.srcA ra) n)

/-- 43_bitwise_shift.md R168: shift composition for all counts, the round trip, associativity, commutativity, De Morgan. -/
def Obligations.ShiftAndBitwiseLaws : Prop :=
  ∀ (x y z : Pattern) (a b : Nat),
    shiftLeft (shiftLeft x a) b = shiftLeft x (a + b) ∧ shiftRight (shiftRight x a) b = shiftRight x (a + b) ∧
    (a < 256 → (shiftRight (shiftLeft x a) a).toNat = x.toNat % 2 ^ (256 - a)) ∧
    x &&& y &&& z = x &&& (y &&& z) ∧ x ||| y ||| z = x ||| (y ||| z) ∧ x ^^^ y ^^^ z = x ^^^ (y ^^^ z) ∧
    x &&& y = y &&& x ∧ x ||| y = y ||| x ∧ x ^^^ y = y ^^^ x ∧ ~~~(x &&& y) = ~~~x ||| ~~~y

/-! ### Sign -/

/-- 44_sign.md R181, value and limbs; T is not written. -/
def Obligations.SignumWritesTheSign : Prop :=
  EncodedC1 0x40 Instr.signum ∧
    (∀ x : Pattern, signum x = signumLimbs x ∧ signum x = (signed x).sign) ∧
    ∀ (ra : Reg) (s : State), ∃ t v, exec (.signum ra) s = .next t ∧ WritesOnlySG v s t ∧
      (signed (s.srcA ra) = 0 → v = 0b00#2) ∧ (0 < signed (s.srcA ra) → v = 0b01#2) ∧
      (signed (s.srcA ra) < 0 → v = 0b11#2)

/-- 44_sign.md R182. -/
def Obligations.IsnegTestsTheTopBit : Prop :=
  EncodedC1 0x41 Instr.isneg ∧
    ∀ (ra : Reg) (s : State), ∃ t b, exec (.isneg ra) s = .next t ∧ WritesOnlyT b s t ∧
      (b = true ↔ signed (s.srcA ra) < 0) ∧ (b = true ↔ signum (s.srcA ra) < 0) ∧ b = (s.srcA ra).getLsbD 255

/-- 44_sign.md R183: the negation is written in every case; MINP wraps to itself and faults after the write. -/
def Obligations.NegNegatesAndFaultsAtTheMinimum : Prop :=
  EncodedR2 0x42 Instr.neg ∧
    (∀ (rd ra : Reg) (s : State),
      (s.srcA ra ≠ minP → ∃ t v, exec (.neg rd ra) s = .next t ∧ WritesOnlyReg rd v s t ∧
        signed v = -signed (s.srcA ra)) ∧
      (s.srcA ra = minP → ∃ t, exec (.neg rd ra) s = .next t ∧ WritesRegThenFaults rd minP .overflow s t)) ∧
    ∀ x : Pattern, negValue (negValue x) = x ∧ negValue x = neg256 x

/-- 44_sign.md R184: the magnitude as an unsigned number, without a fault, also at MINP. -/
def Obligations.AbsIsTheUnsignedMagnitude : Prop :=
  EncodedR2 0x43 Instr.abs ∧
    ∀ (rd ra : Reg) (s : State), ∃ t v, exec (.abs rd ra) s = .next t ∧ WritesOnlyReg rd v s t ∧
      v.toNat = (signed (s.srcA ra)).natAbs ∧ v.toNat ≤ 2 ^ 255

/-- 44_sign.md R185 to R187: signed order, and the unsigned comparator with bit 255 of both operands inverted. -/
def Obligations.SignedComparisonFollowsTheSignedView : Prop :=
  EncodedC2 0x44 Instr.sgt ∧ EncodedC2 0x45 Instr.sgte ∧
    (∀ (ra rb : Reg) (s : State),
      (∃ t b, exec (.sgt ra rb) s = .next t ∧ WritesOnlyT b s t ∧
        (b = true ↔ signed (s.srcA ra) > signed (s.srcB rb))) ∧
      ∃ t b, exec (.sgte ra rb) s = .next t ∧ WritesOnlyT b s t ∧
        (b = true ↔ signed (s.srcA ra) ≥ signed (s.srcB rb))) ∧
    ∀ x y : Pattern, signed x > signed y ↔ (x ^^^ minP).toNat > (y ^^^ minP).toNat

/-- 44_sign.md R188. -/
def Obligations.SignLaws : Prop :=
  ∀ x : Pattern,
    (signum x = 0 ↔ predIsz x = true) ∧ predIsneg x = x.getLsbD 255 ∧
    (0 ≤ signum x → abs256 x = x) ∧ (signum x < 0 → abs256 x = negValue x) ∧
    (x ≠ minP → signed (negValue x) = -signed x) ∧ negValue minP = minP ∧ negValue x = 0 - x

/-! ### Checked signed arithmetic -/

/-- 45_signed_checked.md R202. -/
def Obligations.SaddFollowsTheSignTable : Prop :=
  EncodedR3 0x50 Instr.sadd ∧
    ∀ (rd ra rb : Reg) (s : State), ∃ t z, exec (.sadd rd ra rb) s = .next t ∧
      z.toNat = ((s.srcA ra).toNat + (s.srcB rb).toNat) % 2 ^ 256 ∧
      (if 0 < signed (s.srcA ra) ∧ 0 < signed (s.srcB rb) ∧ signed z < 0 then WritesRegThenFaults rd z .overflow s t
       else if signed (s.srcA ra) < 0 ∧ signed (s.srcB rb) < 0 ∧ 0 < signed z then
         WritesRegThenFaults rd z .underflow s t
       else WritesOnlyReg rd z s t)

/-- 45_signed_checked.md R203. -/
def Obligations.SsubFollowsTheSignTable : Prop :=
  EncodedR3 0x51 Instr.ssub ∧
    ∀ (rd ra rb : Reg) (s : State), ∃ t z, exec (.ssub rd ra rb) s = .next t ∧
      (z.toNat : Int) = ((s.srcA ra).toNat - (s.srcB rb).toNat : Int) % 2 ^ 256 ∧
      (if 0 < signed (s.srcA ra) ∧ signed (s.srcB rb) < 0 ∧ signed z < 0 then WritesRegThenFaults rd z .overflow s t
       else if signed (s.srcA ra) < 0 ∧ 0 < signed (s.srcB rb) ∧ 0 < signed z then
         WritesRegThenFaults rd z .underflow s t
       else WritesOnlyReg rd z s t)

/-- 45_signed_checked.md R204. -/
def Obligations.SmulFollowsTheSignTable : Prop :=
  EncodedR3 0x52 Instr.smul ∧
    ∀ (rd ra rb : Reg) (s : State), ∃ t z, exec (.smul rd ra rb) s = .next t ∧
      z.toNat = (s.srcA ra).toNat * (s.srcB rb).toNat % 2 ^ 256 ∧
      z = toPattern (signed (s.srcA ra) * signed (s.srcB rb)) ∧
      (if (0 < signed (s.srcA ra) ∧ 0 < signed (s.srcB rb) ∨ signed (s.srcA ra) < 0 ∧ signed (s.srcB rb) < 0) ∧
          signed z < 0 then WritesRegThenFaults rd z .overflow s t
       else if (0 < signed (s.srcA ra) ∧ signed (s.srcB rb) < 0 ∨ signed (s.srcA ra) < 0 ∧ 0 < signed (s.srcB rb)) ∧
          0 < signed z then WritesRegThenFaults rd z .underflow s t
       else WritesOnlyReg rd z s t)

/-- 45_signed_checked.md R205: the detectors are sound, an in-range result is exact, and the undetected out-of-range
results are the ones listed there. `X`, `Y` are the signed operands; the commands start with FAULT = 0. -/
def Obligations.DetectorsAreSoundAndMissOnlyTheListed : Prop :=
  ∀ (rd ra rb : Reg) (s : State), s.status.fault = false →
    (∃ t, exec (.sadd rd ra rb) s = .next t ∧
      (InSignedRange (signed (s.srcA ra) + signed (s.srcB rb)) →
        t.status.fault = false ∧ signed (t.reg rd) = signed (s.srcA ra) + signed (s.srcB rb)) ∧
      (¬ InSignedRange (signed (s.srcA ra) + signed (s.srcB rb)) →
        (t.status.fault = false ↔ s.srcA ra = minP ∧ s.srcB rb = minP))) ∧
    (∃ t, exec (.ssub rd ra rb) s = .next t ∧
      (InSignedRange (signed (s.srcA ra) - signed (s.srcB rb)) →
        t.status.fault = false ∧ signed (t.reg rd) = signed (s.srcA ra) - signed (s.srcB rb)) ∧
      (¬ InSignedRange (signed (s.srcA ra) - signed (s.srcB rb)) →
        (t.status.fault = false ↔ s.srcA ra = 0 ∧ s.srcB rb = minP))) ∧
    ∃ t, exec (.smul rd ra rb) s = .next t ∧
      (InSignedRange (signed (s.srcA ra) * signed (s.srcB rb)) →
        t.status.fault = false ∧ signed (t.reg rd) = signed (s.srcA ra) * signed (s.srcB rb)) ∧
      (¬ InSignedRange (signed (s.srcA ra) * signed (s.srcB rb)) →
        (t.status.fault = false ↔
          signed (t.reg rd) = 0 ∨
            (signed (t.reg rd)).sign = (signed (s.srcA ra)).sign * (signed (s.srcB rb)).sign))

/-! ### Signed division -/

/-- 46_signed_division.md R222, R223: the truncated pair, `U(trunc(X / Y))` and `U(X - Y*trunc(X / Y))`. -/
def Obligations.QuoAndRemTruncate : Prop :=
  EncodedR3 0x62 Instr.quo ∧ EncodedR3 0x63 Instr.rem ∧
    ∀ (rd ra rb : Reg) (s : State),
      (s.srcB rb = 0 → (∃ t, exec (.quo rd ra rb) s = .next t ∧ FaultsOnly .divideByZero s t) ∧
        ∃ t, exec (.rem rd ra rb) s = .next t ∧ FaultsOnly .divideByZero s t) ∧
      (s.srcB rb ≠ 0 →
        (∃ t, exec (.quo rd ra rb) s = .next t ∧
          WritesOnlyReg rd (toPattern ((signed (s.srcA ra)).tdiv (signed (s.srcB rb)))) s t) ∧
        ∃ t v, exec (.rem rd ra rb) s = .next t ∧ WritesOnlyReg rd v s t ∧
          signed v = signed (s.srcA ra) - signed (s.srcB rb) * (signed (s.srcA ra)).tdiv (signed (s.srcB rb)) ∧
          (signed v = 0 ∨ (signed v).sign = (signed (s.srcA ra)).sign) ∧
          (signed v).natAbs < (signed (s.srcB rb)).natAbs)

/-- 46_signed_division.md R224, R225: the floored pair, `U(floor(X / Y))` and `U(X - Y*floor(X / Y))`. -/
def Obligations.DivAndModFloor : Prop :=
  EncodedR3 0x60 Instr.div ∧ EncodedR3 0x61 Instr.mod ∧
    ∀ (rd ra rb : Reg) (s : State),
      (s.srcB rb = 0 → (∃ t, exec (.div rd ra rb) s = .next t ∧ FaultsOnly .divideByZero s t) ∧
        ∃ t, exec (.mod rd ra rb) s = .next t ∧ FaultsOnly .divideByZero s t) ∧
      (s.srcB rb ≠ 0 →
        (∃ t, exec (.div rd ra rb) s = .next t ∧
          WritesOnlyReg rd (toPattern ((signed (s.srcA ra)).fdiv (signed (s.srcB rb)))) s t) ∧
        ∃ t v, exec (.mod rd ra rb) s = .next t ∧ WritesOnlyReg rd v s t ∧
          signed v = signed (s.srcA ra) - signed (s.srcB rb) * (signed (s.srcA ra)).fdiv (signed (s.srcB rb)) ∧
          (signed v = 0 ∨ (signed v).sign = (signed (s.srcB rb)).sign) ∧
          (signed v).natAbs < (signed (s.srcB rb)).natAbs)

/-- 46_signed_division.md R226, R227: the Euclidean pair, `U((X - R) / Y)` and `R = X mod |Y|`, `0 <= R < |Y|`. -/
def Obligations.DiveAndModeAreEuclidean : Prop :=
  EncodedR3 0x64 Instr.dive ∧ EncodedR3 0x65 Instr.mode ∧
    ∀ (rd ra rb : Reg) (s : State),
      (s.srcB rb = 0 → (∃ t, exec (.dive rd ra rb) s = .next t ∧ FaultsOnly .divideByZero s t) ∧
        ∃ t, exec (.mode rd ra rb) s = .next t ∧ FaultsOnly .divideByZero s t) ∧
      (s.srcB rb ≠ 0 →
        (∃ t, exec (.dive rd ra rb) s = .next t ∧
          WritesOnlyReg rd (toPattern ((signed (s.srcA ra)).ediv (signed (s.srcB rb)))) s t) ∧
        ∃ t v, exec (.mode rd ra rb) s = .next t ∧ WritesOnlyReg rd v s t ∧
          signed v = signed (s.srcA ra) - signed (s.srcB rb) * (signed (s.srcA ra)).ediv (signed (s.srcB rb)) ∧
          0 ≤ signed v ∧ signed v < (signed (s.srcB rb)).natAbs)

/-- 46_signed_division.md R228: MINP / -1 wraps to MINP with remainder 0 in all three conventions, without a fault, and it
is the only pair whose quotient is out of range; every remainder is in range. -/
def Obligations.OnlyMinimumByMinusOneDoesNotFit : Prop :=
  (∀ (rd ra rb : Reg) (s : State), s.srcA ra = minP → s.srcB rb = maxU →
    (∃ t, exec (.quo rd ra rb) s = .next t ∧ WritesOnlyReg rd minP s t) ∧
    (∃ t, exec (.div rd ra rb) s = .next t ∧ WritesOnlyReg rd minP s t) ∧
    (∃ t, exec (.dive rd ra rb) s = .next t ∧ WritesOnlyReg rd minP s t) ∧
    (∃ t, exec (.rem rd ra rb) s = .next t ∧ WritesOnlyReg rd 0 s t) ∧
    (∃ t, exec (.mod rd ra rb) s = .next t ∧ WritesOnlyReg rd 0 s t) ∧
    ∃ t, exec (.mode rd ra rb) s = .next t ∧ WritesOnlyReg rd 0 s t) ∧
  ∀ x y : Pattern, y ≠ 0 →
    (x = minP ∧ y = maxU ∨
      InSignedRange ((signed x).tdiv (signed y)) ∧ InSignedRange ((signed x).fdiv (signed y)) ∧
        InSignedRange ((signed x).ediv (signed y))) ∧
    InSignedRange (signed x - signed y * (signed x).tdiv (signed y)) ∧
    InSignedRange (signed x - signed y * (signed x).fdiv (signed y)) ∧
    InSignedRange (signed x - signed y * (signed x).ediv (signed y))

/-- 46_signed_division.md R229, its identities: `quotient*y + remainder = x` modulo 2^256 in all three conventions, for
every `x` and every `y` but 0. -/
def Obligations.DivisionIdentities : Prop :=
  ∀ x y : Pattern, y ≠ 0 →
    truncQuo x y * y + truncRem x y = x ∧ floorQuo x y * y + floorRem x y = x ∧ euclidQuo x y * y + euclidRem x y = x

/-- The identity with the checked SMUL and SADD (46_signed_division.md R229, last sentence; log 8, DEDUCED), as far as R202
and R204 let it hold. For the truncated pair neither detector fires but for (MINP, U(-1)), where SMUL raises Overflow. For
the floored and the Euclidean pair SMUL raises nothing exactly when the product of the signed quotient and divisor is in
range, and then SADD raises nothing either. For these two the sentence is too strong: at (MINP, 3) the product is one below
the range and SMUL raises Underflow, and at (1, MINP) the floored quotient is -1 and SMUL raises Overflow. -/
def Obligations.CheckedIdentityHoldsForTheTruncatedPair : Prop :=
  (∀ x y : Pattern, y ≠ 0 → ¬ (x = minP ∧ y = maxU) →
    detect detectMul (truncQuo x y) y (truncQuo x y * y) = none ∧
      detect detectAdd (truncQuo x y * y) (truncRem x y) (truncQuo x y * y + truncRem x y) = none) ∧
  (∀ x y : Pattern, y ≠ 0 →
    (detect detectMul (floorQuo x y) y (floorQuo x y * y) = none ↔
      InSignedRange (signed (floorQuo x y) * signed y)) ∧
    (InSignedRange (signed (floorQuo x y) * signed y) →
      detect detectAdd (floorQuo x y * y) (floorRem x y) (floorQuo x y * y + floorRem x y) = none) ∧
    (detect detectMul (euclidQuo x y) y (euclidQuo x y * y) = none ↔
      InSignedRange (signed (euclidQuo x y) * signed y)) ∧
    (InSignedRange (signed (euclidQuo x y) * signed y) →
      detect detectAdd (euclidQuo x y * y) (euclidRem x y) (euclidQuo x y * y + euclidRem x y) = none)) ∧
  detect detectMul (truncQuo minP maxU) maxU (truncQuo minP maxU * maxU) = some .overflow ∧
  detect detectMul (floorQuo minP maxU) maxU (floorQuo minP maxU * maxU) = some .overflow ∧
  detect detectMul (euclidQuo minP maxU) maxU (euclidQuo minP maxU * maxU) = some .overflow ∧
  detect detectMul (floorQuo 1 minP) minP (floorQuo 1 minP * minP) = some .overflow ∧
  detect detectMul (floorQuo minP 3) 3 (floorQuo minP 3 * 3) = some .underflow ∧
  detect detectMul (euclidQuo minP 3) 3 (euclidQuo minP 3 * 3) = some .underflow
end

