-- ==== Sys2Proof/Laws/Encoding.lean ====
section
/-! SUPPORT. The command word as its fields, which words match a row, and how the decoder finds its row. -/

namespace Sys2Proof

/-! ### A word is its fields -/

theorem toNat_append_eq {m n : Nat} (x : BitVec m) (y : BitVec n) : (x ++ y).toNat = x.toNat * 2 ^ n + y.toNat := by
  rw [BitVec.toNat_append, ← Nat.shiftLeft_add_eq_or_of_lt y.isLt, Nat.shiftLeft_eq]

theorem assemble_toNat (op : BitVec 8) (rd ra rb : BitVec 4) (n : BitVec 12) :
    (assemble op rd ra rb n).toNat =
      op.toNat * 2 ^ 24 + rd.toNat * 2 ^ 20 + ra.toNat * 2 ^ 16 + rb.toNat * 2 ^ 12 + n.toNat := by
  simp only [assemble, toNat_append_eq]
  omega

theorem toNat_extract (w : CmdWord) (lo len : Nat) :
    (w.extractLsb' lo len).toNat = w.toNat / 2 ^ lo % 2 ^ len := by
  simp [BitVec.extractLsb'_toNat, Nat.shiftRight_eq_div_pow]

/-- Every word is assembled from its five fields. -/
theorem assemble_fields (w : CmdWord) :
    assemble (w.extractLsb' 24 8) (w.extractLsb' 20 4) (w.extractLsb' 16 4) (w.extractLsb' 12 4)
      (w.extractLsb' 0 12) = w := by
  apply BitVec.eq_of_toNat_eq
  have := w.isLt
  rw [assemble_toNat]
  simp only [toNat_extract]
  omega

section Fields

variable (op : BitVec 8) (rd ra rb : BitVec 4) (n : BitVec 12)

@[simp] theorem assemble_op : (assemble op rd ra rb n).extractLsb' 24 8 = op := by
  apply BitVec.eq_of_toNat_eq
  have := op.isLt; have := rd.isLt; have := ra.isLt; have := rb.isLt; have := n.isLt
  rw [toNat_extract, assemble_toNat]; omega

@[simp] theorem assemble_rd : (assemble op rd ra rb n).extractLsb' 20 4 = rd := by
  apply BitVec.eq_of_toNat_eq
  have := op.isLt; have := rd.isLt; have := ra.isLt; have := rb.isLt; have := n.isLt
  rw [toNat_extract, assemble_toNat]; omega

@[simp] theorem assemble_ra : (assemble op rd ra rb n).extractLsb' 16 4 = ra := by
  apply BitVec.eq_of_toNat_eq
  have := op.isLt; have := rd.isLt; have := ra.isLt; have := rb.isLt; have := n.isLt
  rw [toNat_extract, assemble_toNat]; omega

@[simp] theorem assemble_rb : (assemble op rd ra rb n).extractLsb' 12 4 = rb := by
  apply BitVec.eq_of_toNat_eq
  have := op.isLt; have := rd.isLt; have := ra.isLt; have := rb.isLt; have := n.isLt
  rw [toNat_extract, assemble_toNat]; omega

@[simp] theorem assemble_n : (assemble op rd ra rb n).extractLsb' 0 12 = n := by
  apply BitVec.eq_of_toNat_eq
  have := op.isLt; have := rd.isLt; have := ra.isLt; have := rb.isLt; have := n.isLt
  rw [toNat_extract, assemble_toNat]; omega

end Fields

theorem assemble_inj {op op' : BitVec 8} {rd rd' ra ra' rb rb' : BitVec 4} {n n' : BitVec 12} :
    assemble op rd ra rb n = assemble op' rd' ra' rb' n' ↔
      op = op' ∧ rd = rd' ∧ ra = ra' ∧ rb = rb' ∧ n = n' := by
  constructor
  · intro h
    exact ⟨by rw [← assemble_op op rd ra rb n, h]; simp, by rw [← assemble_rd op rd ra rb n, h]; simp,
      by rw [← assemble_ra op rd ra rb n, h]; simp, by rw [← assemble_rb op rd ra rb n, h]; simp,
      by rw [← assemble_n op rd ra rb n, h]; simp⟩
  · rintro ⟨rfl, rfl, rfl, rfl, rfl⟩; rfl

theorem assemble_and (op op' : BitVec 8) (rd rd' ra ra' rb rb' : BitVec 4) (n n' : BitVec 12) :
    assemble op rd ra rb n &&& assemble op' rd' ra' rb' n' =
      assemble (op &&& op') (rd &&& rd') (ra &&& ra') (rb &&& rb') (n &&& n') := by
  unfold assemble
  rw [← BitVec.and_append, ← BitVec.and_append, ← BitVec.and_append, ← BitVec.and_append]

/-! ### Register numbers and their bits -/

@[simp] theorem regOfBits_bitsOfReg (r : Reg) : regOfBits (bitsOfReg r) = r := by
  revert r; decide

@[simp] theorem bitsOfReg_regOfBits (b : BitVec 4) : bitsOfReg (regOfBits b) = b := by
  simp [bitsOfReg, regOfBits]

@[simp] theorem bitsOfReg_eq_zero (r : Reg) : bitsOfReg r = 0 ↔ r = 0 := by
  revert r; decide

/-! ### Which words match a row -/

/-- The must-be-zero fields of a format are zero (30_encoding.md R71). -/
def Format.mbzZero (f : Format) (rd ra rb : BitVec 4) (n : BitVec 12) : Prop :=
  match f with
  | .r3 => n = 0
  | .r2 => rb = 0 ∧ n = 0
  | .ri => rb = 0
  | .c2 => rd = 0 ∧ n = 0
  | .c1 => rd = 0 ∧ rb = 0 ∧ n = 0
  | .d1 => ra = 0 ∧ rb = 0 ∧ n = 0

theorem and_ones8 (x : BitVec 8) : x &&& 0xFF#8 = x := BitVec.and_allOnes (x := x)

theorem and_ones4 (x : BitVec 4) : x &&& 0xF#4 = x := BitVec.and_allOnes (x := x)

theorem and_ones12 (x : BitVec 12) : x &&& 0xFFF#12 = x := BitVec.and_allOnes (x := x)

/-- A word matches a row exactly when its opcode is the row's and the row's must-be-zero fields are zero. -/
theorem matches_assemble (row : OpRow) (op : BitVec 8) (rd ra rb : BitVec 4) (n : BitVec 12) :
    row.matches (assemble op rd ra rb n) = true ↔ op = row.op ∧ row.fmt.mbzZero rd ra rb n := by
  obtain ⟨rop, fmt, build⟩ := row
  cases fmt
  case r3 =>
    have hm : Format.mask .r3 = assemble 0xFF#8 0 0 0 0xFFF#12 := by decide
    simp [OpRow.matches, OpRow.pattern, hm, assemble_and, assemble_inj, and_ones8, and_ones12, Format.mbzZero]
  case r2 =>
    have hm : Format.mask .r2 = assemble 0xFF#8 0 0 0xF#4 0xFFF#12 := by decide
    simp [OpRow.matches, OpRow.pattern, hm, assemble_and, assemble_inj, and_ones8, and_ones4, and_ones12,
      Format.mbzZero]
  case ri =>
    have hm : Format.mask .ri = assemble 0xFF#8 0 0 0xF#4 0 := by decide
    simp [OpRow.matches, OpRow.pattern, hm, assemble_and, assemble_inj, and_ones8, and_ones4, Format.mbzZero]
  case c2 =>
    have hm : Format.mask .c2 = assemble 0xFF#8 0xF#4 0 0 0xFFF#12 := by decide
    simp [OpRow.matches, OpRow.pattern, hm, assemble_and, assemble_inj, and_ones8, and_ones4, and_ones12,
      Format.mbzZero]
  case c1 =>
    have hm : Format.mask .c1 = assemble 0xFF#8 0xF#4 0 0xF#4 0xFFF#12 := by decide
    simp [OpRow.matches, OpRow.pattern, hm, assemble_and, assemble_inj, and_ones8, and_ones4, and_ones12,
      Format.mbzZero]
  case d1 =>
    have hm : Format.mask .d1 = assemble 0xFF#8 0 0xF#4 0xF#4 0xFFF#12 := by decide
    simp [OpRow.matches, OpRow.pattern, hm, assemble_and, assemble_inj, and_ones8, and_ones4, and_ones12,
      Format.mbzZero]

/-! ### The decoder finds its row -/

theorem decode_assemble {op : BitVec 8} {row : OpRow} (h : rowOf op = some row) (rd ra rb : BitVec 4) (n : BitVec 12)
    (hz : row.fmt.mbzZero rd ra rb n) :
    decode (assemble op rd ra rb n) = .ok (row.build (regOfBits rd) (regOfBits ra) (regOfBits rb) n.toNat) := by
  have ho : row.op = op := by
    have := List.find?_some h
    simpa using this
  have hmatch := (matches_assemble row op rd ra rb n).2 ⟨ho.symm, hz⟩
  simp [decode, opField, rdField, raField, rbField, countField, h, hmatch]

theorem decode_assemble_error {op : BitVec 8} {row : OpRow} (h : rowOf op = some row) (rd ra rb : BitVec 4)
    (n : BitVec 12) (hz : ¬ row.fmt.mbzZero rd ra rb n) : ∃ e, decode (assemble op rd ra rb n) = .error e := by
  have hmatch : row.matches (assemble op rd ra rb n) = false := by
    rw [Bool.eq_false_iff]
    intro hm
    exact hz ((matches_assemble row op rd ra rb n).1 hm).2
  refine ⟨.mustBeZero row.op (assemble op rd ra rb n &&& row.fmt.mask ^^^ row.pattern), ?_⟩
  simp [decode, opField, h, hmatch]

/-- What a decoded word is: a row of the table, its opcode, its must-be-zero fields zero, its instruction. -/
theorem row_of_decode {w : CmdWord} {i : Instr} (h : decode w = .ok i) :
    ∃ row ∈ opTable, row.matches w = true ∧ i = row.build (rdField w) (raField w) (rbField w) (countField w) := by
  unfold decode at h
  split at h
  · cases h
  · rename_i row hr
    split at h
    · rename_i hm
      cases h
      exact ⟨row, List.mem_of_find?_eq_some hr, hm, rfl⟩
    · cases h

end Sys2Proof
end

