-- ==== Sys2Proof/Laws/Formats.lean ====
section
/-! SUPPORT. The six formats: from a row of the opcode table to what `EncodedR3` ... `EncodedD1` say of its words. -/

namespace Sys2Proof

/-- A sum of fields is the word assembled from them. -/
theorem wordOf_eq {op : Nat} (hop : op < 256) (d a b : Reg) {n : Nat} (hn : n < 4096) :
    wordOf op d a b n =
      assemble (BitVec.ofNat 8 op) (bitsOfReg d) (bitsOfReg a) (bitsOfReg b) (BitVec.ofNat 12 n) := by
  apply BitVec.eq_of_toNat_eq
  rw [assemble_toNat]
  have := hop
  have := d.isLt
  have := a.isLt
  have := b.isLt
  simp only [wordOf, bitsOfReg, BitVec.toNat_ofNat]
  omega

theorem encodedAs_of_row {op : Nat} (hop : op < 256) {row : OpRow} (hr : rowOf (BitVec.ofNat 8 op) = some row)
    {mbz : Reg → Reg → Reg → Nat → Prop}
    (hm : ∀ d a b n, n < 4096 →
      (row.fmt.mbzZero (bitsOfReg d) (bitsOfReg a) (bitsOfReg b) (BitVec.ofNat 12 n) ↔ mbz d a b n)) :
    EncodedAs op mbz row.build := by
  intro d a b n hn
  rw [wordOf_eq hop d a b hn]
  refine ⟨fun h => ?_, fun h => ?_⟩
  · rw [decode_assemble hr _ _ _ _ ((hm d a b n hn).2 h)]
    simp [Nat.mod_eq_of_lt hn]
  · obtain ⟨e, he⟩ := decode_assemble_error hr _ _ _ _ (fun hz => h ((hm d a b n hn).1 hz))
    simp [legal, he]

theorem ofNat12_eq_zero {n : Nat} (h : n < 4096) : BitVec.ofNat 12 n = 0 ↔ n = 0 := by
  rw [← BitVec.toNat_inj]
  simp
  omega

section Formats

variable {op : Nat} (hop : op < 256)
include hop

theorem encodedR3_of_row {c : Reg → Reg → Reg → Instr}
    (hr : rowOf (BitVec.ofNat 8 op) = some ⟨BitVec.ofNat 8 op, .r3, fun d a b _ => c d a b⟩) : EncodedR3 op c :=
  encodedAs_of_row hop hr fun _ _ _ _ h => ofNat12_eq_zero h

theorem encodedR2_of_row {c : Reg → Reg → Instr}
    (hr : rowOf (BitVec.ofNat 8 op) = some ⟨BitVec.ofNat 8 op, .r2, fun d a _ _ => c d a⟩) : EncodedR2 op c :=
  encodedAs_of_row hop hr fun _ _ _ _ h => and_congr (bitsOfReg_eq_zero _) (ofNat12_eq_zero h)

theorem encodedRI_of_row {c : Reg → Reg → Nat → Instr}
    (hr : rowOf (BitVec.ofNat 8 op) = some ⟨BitVec.ofNat 8 op, .ri, fun d a _ n => c d a n⟩) : EncodedRI op c :=
  encodedAs_of_row hop hr fun _ _ _ _ _ => bitsOfReg_eq_zero _

theorem encodedC2_of_row {c : Reg → Reg → Instr}
    (hr : rowOf (BitVec.ofNat 8 op) = some ⟨BitVec.ofNat 8 op, .c2, fun _ a b _ => c a b⟩) : EncodedC2 op c :=
  encodedAs_of_row hop hr fun _ _ _ _ h => and_congr (bitsOfReg_eq_zero _) (ofNat12_eq_zero h)

theorem encodedC1_of_row {c : Reg → Instr}
    (hr : rowOf (BitVec.ofNat 8 op) = some ⟨BitVec.ofNat 8 op, .c1, fun _ a _ _ => c a⟩) : EncodedC1 op c :=
  encodedAs_of_row hop hr fun _ _ _ _ h => and_congr (bitsOfReg_eq_zero _) (and_congr (bitsOfReg_eq_zero _) (ofNat12_eq_zero h))

theorem encodedD1_of_row {c : Reg → Instr}
    (hr : rowOf (BitVec.ofNat 8 op) = some ⟨BitVec.ofNat 8 op, .d1, fun d _ _ _ => c d⟩) : EncodedD1 op c :=
  encodedAs_of_row hop hr fun _ _ _ _ h => and_congr (bitsOfReg_eq_zero _) (and_congr (bitsOfReg_eq_zero _) (ofNat12_eq_zero h))

end Formats

end Sys2Proof
end

