-- ==== Sys2Proof/Laws/State.lean ====
section
/-! SUPPORT. The fields of State after each named update: one lemma per field per update, so that no proof unfolds a
record update; and the read-after-write laws of the registers. -/

namespace Sys2Proof.Machine

@[simp] theorem State.setReg_w (s : State) (r : Reg) (v : Pattern) :
    (s.setReg r v).w = s.w.set r v := rfl

@[simp] theorem State.setReg_status (s : State) (r : Reg) (v : Pattern) :
    (s.setReg r v).status = s.status := rfl

@[simp] theorem State.setReg_fcmd (s : State) (r : Reg) (v : Pattern) :
    (s.setReg r v).fcmd = s.fcmd := rfl

@[simp] theorem State.setReg_dout (s : State) (r : Reg) (v : Pattern) :
    (s.setReg r v).dout = s.dout := rfl

@[simp] theorem State.setReg_written (s : State) (r : Reg) (v : Pattern) :
    (s.setReg r v).written = s.written.set r true := rfl

@[simp] theorem State.setReg_doutWritten (s : State) (r : Reg) (v : Pattern) :
    (s.setReg r v).doutWritten = s.doutWritten := rfl

@[simp] theorem State.setReg_cmd (s : State) (r : Reg) (v : Pattern) :
    (s.setReg r v).cmd = s.cmd := rfl

@[simp] theorem State.setReg_din (s : State) (r : Reg) (v : Pattern) :
    (s.setReg r v).din = s.din := rfl

@[simp] theorem State.setReg_pending (s : State) (r : Reg) (v : Pattern) :
    (s.setReg r v).pending = s.pending := rfl

@[simp] theorem State.setReg_k (s : State) (r : Reg) (v : Pattern) :
    (s.setReg r v).k = s.k := rfl

@[simp] theorem State.setReg_rsp (s : State) (r : Reg) (v : Pattern) :
    (s.setReg r v).rsp = s.rsp := rfl

@[simp] theorem State.setDout_w (s : State) (v : Pattern) :
    (s.setDout v).w = s.w := rfl

@[simp] theorem State.setDout_status (s : State) (v : Pattern) :
    (s.setDout v).status = s.status := rfl

@[simp] theorem State.setDout_fcmd (s : State) (v : Pattern) :
    (s.setDout v).fcmd = s.fcmd := rfl

@[simp] theorem State.setDout_dout (s : State) (v : Pattern) :
    (s.setDout v).dout = v := rfl

@[simp] theorem State.setDout_written (s : State) (v : Pattern) :
    (s.setDout v).written = s.written := rfl

@[simp] theorem State.setDout_doutWritten (s : State) (v : Pattern) :
    (s.setDout v).doutWritten = true := rfl

@[simp] theorem State.setDout_cmd (s : State) (v : Pattern) :
    (s.setDout v).cmd = s.cmd := rfl

@[simp] theorem State.setDout_din (s : State) (v : Pattern) :
    (s.setDout v).din = s.din := rfl

@[simp] theorem State.setDout_pending (s : State) (v : Pattern) :
    (s.setDout v).pending = s.pending := rfl

@[simp] theorem State.setDout_k (s : State) (v : Pattern) :
    (s.setDout v).k = s.k := rfl

@[simp] theorem State.setDout_rsp (s : State) (v : Pattern) :
    (s.setDout v).rsp = s.rsp := rfl

@[simp] theorem State.setT_w (s : State) (b : Bool) :
    (s.setT b).w = s.w := rfl

@[simp] theorem State.setT_status (s : State) (b : Bool) :
    (s.setT b).status = { s.status with t := b } := rfl

@[simp] theorem State.setT_fcmd (s : State) (b : Bool) :
    (s.setT b).fcmd = s.fcmd := rfl

@[simp] theorem State.setT_dout (s : State) (b : Bool) :
    (s.setT b).dout = s.dout := rfl

@[simp] theorem State.setT_written (s : State) (b : Bool) :
    (s.setT b).written = s.written := rfl

@[simp] theorem State.setT_doutWritten (s : State) (b : Bool) :
    (s.setT b).doutWritten = s.doutWritten := rfl

@[simp] theorem State.setT_cmd (s : State) (b : Bool) :
    (s.setT b).cmd = s.cmd := rfl

@[simp] theorem State.setT_din (s : State) (b : Bool) :
    (s.setT b).din = s.din := rfl

@[simp] theorem State.setT_pending (s : State) (b : Bool) :
    (s.setT b).pending = s.pending := rfl

@[simp] theorem State.setT_k (s : State) (b : Bool) :
    (s.setT b).k = s.k := rfl

@[simp] theorem State.setT_rsp (s : State) (b : Bool) :
    (s.setT b).rsp = s.rsp := rfl

@[simp] theorem State.setSG_w (s : State) (v : BitVec 2) :
    (s.setSG v).w = s.w := rfl

@[simp] theorem State.setSG_status (s : State) (v : BitVec 2) :
    (s.setSG v).status = { s.status with sg := v } := rfl

@[simp] theorem State.setSG_fcmd (s : State) (v : BitVec 2) :
    (s.setSG v).fcmd = s.fcmd := rfl

@[simp] theorem State.setSG_dout (s : State) (v : BitVec 2) :
    (s.setSG v).dout = s.dout := rfl

@[simp] theorem State.setSG_written (s : State) (v : BitVec 2) :
    (s.setSG v).written = s.written := rfl

@[simp] theorem State.setSG_doutWritten (s : State) (v : BitVec 2) :
    (s.setSG v).doutWritten = s.doutWritten := rfl

@[simp] theorem State.setSG_cmd (s : State) (v : BitVec 2) :
    (s.setSG v).cmd = s.cmd := rfl

@[simp] theorem State.setSG_din (s : State) (v : BitVec 2) :
    (s.setSG v).din = s.din := rfl

@[simp] theorem State.setSG_pending (s : State) (v : BitVec 2) :
    (s.setSG v).pending = s.pending := rfl

@[simp] theorem State.setSG_k (s : State) (v : BitVec 2) :
    (s.setSG v).k = s.k := rfl

@[simp] theorem State.setSG_rsp (s : State) (v : BitVec 2) :
    (s.setSG v).rsp = s.rsp := rfl

@[simp] theorem State.raise_w (s : State) (c : Cause) :
    (s.raise c).w = s.w := rfl

@[simp] theorem State.raise_status (s : State) (c : Cause) :
    (s.raise c).status = { s.status with fault := true, cause := c.code } := rfl

@[simp] theorem State.raise_fcmd (s : State) (c : Cause) :
    (s.raise c).fcmd = s.cmd := rfl

@[simp] theorem State.raise_dout (s : State) (c : Cause) :
    (s.raise c).dout = s.dout := rfl

@[simp] theorem State.raise_written (s : State) (c : Cause) :
    (s.raise c).written = s.written := rfl

@[simp] theorem State.raise_doutWritten (s : State) (c : Cause) :
    (s.raise c).doutWritten = s.doutWritten := rfl

@[simp] theorem State.raise_cmd (s : State) (c : Cause) :
    (s.raise c).cmd = s.cmd := rfl

@[simp] theorem State.raise_din (s : State) (c : Cause) :
    (s.raise c).din = s.din := rfl

@[simp] theorem State.raise_pending (s : State) (c : Cause) :
    (s.raise c).pending = s.pending := rfl

@[simp] theorem State.raise_k (s : State) (c : Cause) :
    (s.raise c).k = s.k := rfl

@[simp] theorem State.raise_rsp (s : State) (c : Cause) :
    (s.raise c).rsp = s.rsp := rfl

@[simp] theorem State.takeReset_w (s : State) :
    (s.takeReset).w = State.reset.w := rfl

@[simp] theorem State.takeReset_status (s : State) :
    (s.takeReset).status = Status.reset := rfl

@[simp] theorem State.takeReset_fcmd (s : State) :
    (s.takeReset).fcmd = 0 := rfl

@[simp] theorem State.takeReset_dout (s : State) :
    (s.takeReset).dout = State.reset.dout := rfl

@[simp] theorem State.takeReset_written (s : State) :
    (s.takeReset).written = State.reset.written := rfl

@[simp] theorem State.takeReset_doutWritten (s : State) :
    (s.takeReset).doutWritten = false := rfl

@[simp] theorem State.takeReset_cmd (s : State) :
    (s.takeReset).cmd = s.cmd := rfl

@[simp] theorem State.takeReset_din (s : State) :
    (s.takeReset).din = s.din := rfl

@[simp] theorem State.takeReset_pending (s : State) :
    (s.takeReset).pending = s.pending := rfl

@[simp] theorem State.takeReset_k (s : State) :
    (s.takeReset).k = 0 := rfl

@[simp] theorem State.takeReset_rsp (s : State) :
    (s.takeReset).rsp = s.rsp := rfl

@[simp] theorem State.accept_w (s : State) (c : Command) (rest : List HostAction) :
    (s.accept c rest).w = s.w := rfl

@[simp] theorem State.accept_status (s : State) (c : Command) (rest : List HostAction) :
    (s.accept c rest).status = s.status := rfl

@[simp] theorem State.accept_fcmd (s : State) (c : Command) (rest : List HostAction) :
    (s.accept c rest).fcmd = s.fcmd := rfl

@[simp] theorem State.accept_dout (s : State) (c : Command) (rest : List HostAction) :
    (s.accept c rest).dout = s.dout := rfl

@[simp] theorem State.accept_written (s : State) (c : Command) (rest : List HostAction) :
    (s.accept c rest).written = s.written := rfl

@[simp] theorem State.accept_doutWritten (s : State) (c : Command) (rest : List HostAction) :
    (s.accept c rest).doutWritten = s.doutWritten := rfl

@[simp] theorem State.accept_cmd (s : State) (c : Command) (rest : List HostAction) :
    (s.accept c rest).cmd = c.word := rfl

@[simp] theorem State.accept_din (s : State) (c : Command) (rest : List HostAction) :
    (s.accept c rest).din = c.din := rfl

@[simp] theorem State.accept_pending (s : State) (c : Command) (rest : List HostAction) :
    (s.accept c rest).pending = rest := rfl

@[simp] theorem State.accept_k (s : State) (c : Command) (rest : List HostAction) :
    (s.accept c rest).k = s.k := rfl

@[simp] theorem State.accept_rsp (s : State) (c : Command) (rest : List HostAction) :
    (s.accept c rest).rsp = s.rsp := rfl

@[simp] theorem State.respond_w (s : State) :
    (s.respond).w = s.w := rfl

@[simp] theorem State.respond_status (s : State) :
    (s.respond).status = s.status := rfl

@[simp] theorem State.respond_fcmd (s : State) :
    (s.respond).fcmd = s.fcmd := rfl

@[simp] theorem State.respond_dout (s : State) :
    (s.respond).dout = s.dout := rfl

@[simp] theorem State.respond_written (s : State) :
    (s.respond).written = s.written := rfl

@[simp] theorem State.respond_doutWritten (s : State) :
    (s.respond).doutWritten = s.doutWritten := rfl

@[simp] theorem State.respond_cmd (s : State) :
    (s.respond).cmd = s.cmd := rfl

@[simp] theorem State.respond_din (s : State) :
    (s.respond).din = s.din := rfl

@[simp] theorem State.respond_pending (s : State) :
    (s.respond).pending = s.pending := rfl

@[simp] theorem State.respond_k (s : State) :
    (s.respond).k = if s.status.fault then s.k else s.k + 1 := rfl

@[simp] theorem State.respond_rsp (s : State) :
    (s.respond).rsp = s.rsp + 1 := rfl

@[simp] theorem State.offerNext_w (s : State) (w : CmdWord) :
    (s.offerNext w).w = s.w := rfl

@[simp] theorem State.offerNext_status (s : State) (w : CmdWord) :
    (s.offerNext w).status = s.status := rfl

@[simp] theorem State.offerNext_fcmd (s : State) (w : CmdWord) :
    (s.offerNext w).fcmd = s.fcmd := rfl

@[simp] theorem State.offerNext_dout (s : State) (w : CmdWord) :
    (s.offerNext w).dout = s.dout := rfl

@[simp] theorem State.offerNext_written (s : State) (w : CmdWord) :
    (s.offerNext w).written = s.written := rfl

@[simp] theorem State.offerNext_doutWritten (s : State) (w : CmdWord) :
    (s.offerNext w).doutWritten = s.doutWritten := rfl

@[simp] theorem State.offerNext_cmd (s : State) (w : CmdWord) :
    (s.offerNext w).cmd = s.cmd := rfl

@[simp] theorem State.offerNext_din (s : State) (w : CmdWord) :
    (s.offerNext w).din = s.din := rfl

@[simp] theorem State.offerNext_pending (s : State) (w : CmdWord) :
    (s.offerNext w).pending = .command ⟨w, s.nextDin⟩ :: s.pending.tail := rfl

@[simp] theorem State.offerNext_k (s : State) (w : CmdWord) :
    (s.offerNext w).k = s.k := rfl

@[simp] theorem State.offerNext_rsp (s : State) (w : CmdWord) :
    (s.offerNext w).rsp = s.rsp := rfl

/-! ### Registers and marks -/

@[simp] theorem State.setReg_reg_self (s : State) (r : Reg) (v : Pattern) : (s.setReg r v).reg r = v := by
  simp [State.reg]

theorem State.setReg_reg_of_ne (s : State) {r q : Reg} (v : Pattern) (h : q ≠ r) : (s.setReg r v).reg q = s.reg q := by
  have hv : r.val ≠ q.val := fun e => h (Fin.ext e.symm)
  simp [State.reg, hv]

@[simp] theorem State.setReg_marked_self (s : State) (r : Reg) (v : Pattern) : (s.setReg r v).marked r = true := by
  simp [State.marked]

theorem State.setReg_marked_of_ne (s : State) {r q : Reg} (v : Pattern) (h : q ≠ r) :
    (s.setReg r v).marked q = s.marked q := by
  have hv : r.val ≠ q.val := fun e => h (Fin.ext e.symm)
  simp [State.marked, hv]

@[simp] theorem State.setDout_reg (s : State) (v : Pattern) (q : Reg) :
    (s.setDout v).reg q = s.reg q := rfl

@[simp] theorem State.setDout_marked (s : State) (v : Pattern) (q : Reg) :
    (s.setDout v).marked q = s.marked q := rfl

@[simp] theorem State.setT_reg (s : State) (b : Bool) (q : Reg) :
    (s.setT b).reg q = s.reg q := rfl

@[simp] theorem State.setT_marked (s : State) (b : Bool) (q : Reg) :
    (s.setT b).marked q = s.marked q := rfl

@[simp] theorem State.setSG_reg (s : State) (v : BitVec 2) (q : Reg) :
    (s.setSG v).reg q = s.reg q := rfl

@[simp] theorem State.setSG_marked (s : State) (v : BitVec 2) (q : Reg) :
    (s.setSG v).marked q = s.marked q := rfl

@[simp] theorem State.raise_reg (s : State) (c : Cause) (q : Reg) :
    (s.raise c).reg q = s.reg q := rfl

@[simp] theorem State.raise_marked (s : State) (c : Cause) (q : Reg) :
    (s.raise c).marked q = s.marked q := rfl

@[simp] theorem State.accept_reg (s : State) (c : Command) (rest : List HostAction) (q : Reg) :
    (s.accept c rest).reg q = s.reg q := rfl

@[simp] theorem State.accept_marked (s : State) (c : Command) (rest : List HostAction) (q : Reg) :
    (s.accept c rest).marked q = s.marked q := rfl

@[simp] theorem State.respond_reg (s : State) (q : Reg) :
    (s.respond).reg q = s.reg q := rfl

@[simp] theorem State.respond_marked (s : State) (q : Reg) :
    (s.respond).marked q = s.marked q := rfl

@[simp] theorem State.offerNext_reg (s : State) (w : CmdWord) (q : Reg) :
    (s.offerNext w).reg q = s.reg q := rfl

@[simp] theorem State.offerNext_marked (s : State) (w : CmdWord) (q : Reg) :
    (s.offerNext w).marked q = s.marked q := rfl

@[simp] theorem State.takeReset_marked (s : State) (q : Reg) : s.takeReset.marked q = false := by
  simp [State.marked, State.reset]

@[simp] theorem State.reset_marked (q : Reg) : State.reset.marked q = false := by
  simp [State.marked, State.reset]

theorem State.read_of_marked (s : State) (port : Nat) {r : Reg} (h : s.marked r = true) : s.read port r = s.reg r := by
  simp [State.read, h]

theorem State.read_of_unmarked (s : State) (port : Nat) {r : Reg} (h : s.marked r = false) :
    s.read port r = Config.unwritten s.rsp port := by
  simp [State.read, h]

@[simp] theorem State.raiseIf_none (s : State) : s.raiseIf none = s := rfl

@[simp] theorem State.raiseIf_some (s : State) (c : Cause) : s.raiseIf (some c) = s.raise c := rfl

end Sys2Proof.Machine
end

