-- ==== Sys2Proof/Laws/Ops.lean ====
section
/-! SUPPORT. What each shared operation does, said once, in the terms of Safety. -/

namespace Sys2Proof.Machine

theorem State.sameHost_refl (s : State) : SameHost s s := ⟨rfl, rfl, rfl, rfl, rfl⟩

theorem State.sameRegs_refl (s : State) : SameRegs s s := fun _ => ⟨rfl, rfl⟩

theorem State.sameDout_refl (s : State) : SameDout s s := ⟨rfl, rfl⟩

theorem State.setReg_regWritten (s : State) (rd : Reg) (v : Pattern) : RegWritten rd v s (s.setReg rd v) :=
  ⟨by simp, by simp, fun _ h => ⟨s.setReg_reg_of_ne v h, s.setReg_marked_of_ne v h⟩⟩

/-- A register write writes that register and nothing else. -/
theorem State.setReg_writesOnlyReg (s : State) (rd : Reg) (v : Pattern) : WritesOnlyReg rd v s (s.setReg rd v) :=
  ⟨s.setReg_regWritten rd v, rfl, rfl, ⟨rfl, rfl⟩, ⟨rfl, rfl, rfl, rfl, rfl⟩⟩

/-- A write of T writes T and nothing else. -/
theorem State.setT_writesOnlyT (s : State) (b : Bool) : WritesOnlyT b s (s.setT b) :=
  ⟨rfl, rfl, rfl, rfl, rfl, rfl, fun _ => ⟨rfl, rfl⟩, ⟨rfl, rfl⟩, ⟨rfl, rfl, rfl, rfl, rfl⟩⟩

/-- A write of SG writes SG and nothing else. -/
theorem State.setSG_writesOnlySG (s : State) (v : BitVec 2) : WritesOnlySG v s (s.setSG v) :=
  ⟨rfl, rfl, rfl, rfl, rfl, rfl, fun _ => ⟨rfl, rfl⟩, ⟨rfl, rfl⟩, ⟨rfl, rfl, rfl, rfl, rfl⟩⟩

/-- A write of DOUT writes DOUT and nothing else. -/
theorem State.setDout_writesOnlyDout (s : State) (v : Pattern) : WritesOnlyDout v s (s.setDout v) :=
  ⟨rfl, rfl, rfl, rfl, fun _ => ⟨rfl, rfl⟩, ⟨rfl, rfl, rfl, rfl, rfl⟩⟩

/-- Fault entry writes FAULT, CAUSE and FCMD and nothing else (60_exceptions.md R256). -/
theorem State.raise_faultsOnly (s : State) (c : Cause) : FaultsOnly c s (s.raise c) :=
  ⟨⟨rfl, rfl, rfl, rfl, rfl, rfl⟩, fun _ => ⟨rfl, rfl⟩, ⟨rfl, rfl⟩, ⟨rfl, rfl, rfl, rfl, rfl⟩⟩

/-- A checked command without a violation writes its result and nothing else. -/
theorem State.commitChecked_none (s : State) (rd : Reg) (z : Pattern) :
    WritesOnlyReg rd z s (s.commitChecked rd z none) :=
  s.setReg_writesOnlyReg rd z

/-- A checked command with a violation writes its wrapped result and enters the fault. -/
theorem State.commitChecked_some (s : State) (rd : Reg) (z : Pattern) (c : Cause) :
    WritesRegThenFaults rd z c s (s.commitChecked rd z (some c)) :=
  ⟨⟨(s.setReg_regWritten rd z).1, (s.setReg_regWritten rd z).2.1, (s.setReg_regWritten rd z).2.2⟩,
    ⟨rfl, rfl, rfl, rfl, rfl, rfl⟩, ⟨rfl, rfl⟩, ⟨rfl, rfl, rfl, rfl, rfl⟩⟩

/-- A division by zero enters the fault and writes no register (60_exceptions.md R254). -/
theorem State.commitDivision_zero (s : State) (rd : Reg) {y : Pattern} (v : Pattern) (h : y = 0) :
    FaultsOnly .divideByZero s (s.commitDivision rd y v) := by
  rw [State.commitDivision, if_pos h]
  exact s.raise_faultsOnly .divideByZero

/-- A division by a non-zero divisor writes its result and nothing else. -/
theorem State.commitDivision_nonzero (s : State) (rd : Reg) {y : Pattern} (v : Pattern) (h : y ≠ 0) :
    WritesOnlyReg rd v s (s.commitDivision rd y v) := by
  rw [State.commitDivision, if_neg h]
  exact s.setReg_writesOnlyReg rd v

end Sys2Proof.Machine
end

