-- ==== Sys2Proof/Laws/PerInstr.lean ====
section
/-! SUPPORT. The family Encoding: about each instruction as syntax, that its word is a word of its own row of the opcode
table (30_encoding.md R71, R75): the opcode is the row's, the format is the row's, and the must-be-zero fields are zero. -/

open Sys2Proof

/-- The word of `i` matches the one row that its opcode finds, and that row has `i`'s format. -/
def Sys2Proof.Laws.Encoding.Statement (i : Instr) : Prop :=
  ∃ row, rowOf i.opcode = some row ∧ row.fmt = i.format ∧ row.matches (encode i) = true ∧
    opField (encode i) = i.opcode

theorem Sys2Proof.Laws.Encoding.of_fields {i : Instr} {row : OpRow} {rd ra rb : BitVec 4} {n : BitVec 12}
    (hr : rowOf i.opcode = some row) (hf : row.fmt = i.format) (he : encode i = assemble i.opcode rd ra rb n)
    (hz : row.fmt.mbzZero rd ra rb n) : Sys2Proof.Laws.Encoding.Statement i := by
  have ho : row.op = i.opcode := by simpa using List.find?_some hr
  refine ⟨row, hr, hf, ?_, ?_⟩
  · rw [he]
    exact (matches_assemble row _ _ _ _ _).2 ⟨ho.symm, hz⟩
  · rw [he]
    simp [opField]

theorem Sys2Proof.Laws.Encoding.ldw (d : Reg) :
    Sys2Proof.Laws.Encoding.Statement (.ldw d) :=
  Sys2Proof.Laws.Encoding.of_fields rfl rfl rfl ⟨rfl, rfl, rfl⟩

theorem Sys2Proof.Laws.Encoding.stw (a : Reg) :
    Sys2Proof.Laws.Encoding.Statement (.stw a) :=
  Sys2Proof.Laws.Encoding.of_fields rfl rfl rfl ⟨rfl, rfl, rfl⟩

theorem Sys2Proof.Laws.Encoding.mov (d a : Reg) :
    Sys2Proof.Laws.Encoding.Statement (.mov d a) :=
  Sys2Proof.Laws.Encoding.of_fields rfl rfl rfl ⟨rfl, rfl⟩

theorem Sys2Proof.Laws.Encoding.setu (d : Reg) :
    Sys2Proof.Laws.Encoding.Statement (.setu d) :=
  Sys2Proof.Laws.Encoding.of_fields rfl rfl rfl ⟨rfl, rfl, rfl⟩

theorem Sys2Proof.Laws.Encoding.sets (d : Reg) :
    Sys2Proof.Laws.Encoding.Statement (.sets d) :=
  Sys2Proof.Laws.Encoding.of_fields rfl rfl rfl ⟨rfl, rfl, rfl⟩

theorem Sys2Proof.Laws.Encoding.add (d a b : Reg) :
    Sys2Proof.Laws.Encoding.Statement (.add d a b) :=
  Sys2Proof.Laws.Encoding.of_fields rfl rfl rfl rfl

theorem Sys2Proof.Laws.Encoding.sub (d a b : Reg) :
    Sys2Proof.Laws.Encoding.Statement (.sub d a b) :=
  Sys2Proof.Laws.Encoding.of_fields rfl rfl rfl rfl

theorem Sys2Proof.Laws.Encoding.mul (d a b : Reg) :
    Sys2Proof.Laws.Encoding.Statement (.mul d a b) :=
  Sys2Proof.Laws.Encoding.of_fields rfl rfl rfl rfl

theorem Sys2Proof.Laws.Encoding.udiv (d a b : Reg) :
    Sys2Proof.Laws.Encoding.Statement (.udiv d a b) :=
  Sys2Proof.Laws.Encoding.of_fields rfl rfl rfl rfl

theorem Sys2Proof.Laws.Encoding.urem (d a b : Reg) :
    Sys2Proof.Laws.Encoding.Statement (.urem d a b) :=
  Sys2Proof.Laws.Encoding.of_fields rfl rfl rfl rfl

theorem Sys2Proof.Laws.Encoding.eq (a b : Reg) :
    Sys2Proof.Laws.Encoding.Statement (.eq a b) :=
  Sys2Proof.Laws.Encoding.of_fields rfl rfl rfl ⟨rfl, rfl⟩

theorem Sys2Proof.Laws.Encoding.gt (a b : Reg) :
    Sys2Proof.Laws.Encoding.Statement (.gt a b) :=
  Sys2Proof.Laws.Encoding.of_fields rfl rfl rfl ⟨rfl, rfl⟩

theorem Sys2Proof.Laws.Encoding.gte (a b : Reg) :
    Sys2Proof.Laws.Encoding.Statement (.gte a b) :=
  Sys2Proof.Laws.Encoding.of_fields rfl rfl rfl ⟨rfl, rfl⟩

theorem Sys2Proof.Laws.Encoding.isz (a : Reg) :
    Sys2Proof.Laws.Encoding.Statement (.isz a) :=
  Sys2Proof.Laws.Encoding.of_fields rfl rfl rfl ⟨rfl, rfl, rfl⟩

theorem Sys2Proof.Laws.Encoding.not (d a : Reg) :
    Sys2Proof.Laws.Encoding.Statement (.not d a) :=
  Sys2Proof.Laws.Encoding.of_fields rfl rfl rfl ⟨rfl, rfl⟩

theorem Sys2Proof.Laws.Encoding.and (d a b : Reg) :
    Sys2Proof.Laws.Encoding.Statement (.and d a b) :=
  Sys2Proof.Laws.Encoding.of_fields rfl rfl rfl rfl

theorem Sys2Proof.Laws.Encoding.or (d a b : Reg) :
    Sys2Proof.Laws.Encoding.Statement (.or d a b) :=
  Sys2Proof.Laws.Encoding.of_fields rfl rfl rfl rfl

theorem Sys2Proof.Laws.Encoding.xor (d a b : Reg) :
    Sys2Proof.Laws.Encoding.Statement (.xor d a b) :=
  Sys2Proof.Laws.Encoding.of_fields rfl rfl rfl rfl

theorem Sys2Proof.Laws.Encoding.shl (d a : Reg) (n : Nat) :
    Sys2Proof.Laws.Encoding.Statement (.shl d a n) :=
  Sys2Proof.Laws.Encoding.of_fields rfl rfl rfl rfl

theorem Sys2Proof.Laws.Encoding.shr (d a : Reg) (n : Nat) :
    Sys2Proof.Laws.Encoding.Statement (.shr d a n) :=
  Sys2Proof.Laws.Encoding.of_fields rfl rfl rfl rfl

theorem Sys2Proof.Laws.Encoding.signum (a : Reg) :
    Sys2Proof.Laws.Encoding.Statement (.signum a) :=
  Sys2Proof.Laws.Encoding.of_fields rfl rfl rfl ⟨rfl, rfl, rfl⟩

theorem Sys2Proof.Laws.Encoding.isneg (a : Reg) :
    Sys2Proof.Laws.Encoding.Statement (.isneg a) :=
  Sys2Proof.Laws.Encoding.of_fields rfl rfl rfl ⟨rfl, rfl, rfl⟩

theorem Sys2Proof.Laws.Encoding.neg (d a : Reg) :
    Sys2Proof.Laws.Encoding.Statement (.neg d a) :=
  Sys2Proof.Laws.Encoding.of_fields rfl rfl rfl ⟨rfl, rfl⟩

theorem Sys2Proof.Laws.Encoding.abs (d a : Reg) :
    Sys2Proof.Laws.Encoding.Statement (.abs d a) :=
  Sys2Proof.Laws.Encoding.of_fields rfl rfl rfl ⟨rfl, rfl⟩

theorem Sys2Proof.Laws.Encoding.sgt (a b : Reg) :
    Sys2Proof.Laws.Encoding.Statement (.sgt a b) :=
  Sys2Proof.Laws.Encoding.of_fields rfl rfl rfl ⟨rfl, rfl⟩

theorem Sys2Proof.Laws.Encoding.sgte (a b : Reg) :
    Sys2Proof.Laws.Encoding.Statement (.sgte a b) :=
  Sys2Proof.Laws.Encoding.of_fields rfl rfl rfl ⟨rfl, rfl⟩

theorem Sys2Proof.Laws.Encoding.sadd (d a b : Reg) :
    Sys2Proof.Laws.Encoding.Statement (.sadd d a b) :=
  Sys2Proof.Laws.Encoding.of_fields rfl rfl rfl rfl

theorem Sys2Proof.Laws.Encoding.ssub (d a b : Reg) :
    Sys2Proof.Laws.Encoding.Statement (.ssub d a b) :=
  Sys2Proof.Laws.Encoding.of_fields rfl rfl rfl rfl

theorem Sys2Proof.Laws.Encoding.smul (d a b : Reg) :
    Sys2Proof.Laws.Encoding.Statement (.smul d a b) :=
  Sys2Proof.Laws.Encoding.of_fields rfl rfl rfl rfl

theorem Sys2Proof.Laws.Encoding.div (d a b : Reg) :
    Sys2Proof.Laws.Encoding.Statement (.div d a b) :=
  Sys2Proof.Laws.Encoding.of_fields rfl rfl rfl rfl

theorem Sys2Proof.Laws.Encoding.mod (d a b : Reg) :
    Sys2Proof.Laws.Encoding.Statement (.mod d a b) :=
  Sys2Proof.Laws.Encoding.of_fields rfl rfl rfl rfl

theorem Sys2Proof.Laws.Encoding.quo (d a b : Reg) :
    Sys2Proof.Laws.Encoding.Statement (.quo d a b) :=
  Sys2Proof.Laws.Encoding.of_fields rfl rfl rfl rfl

theorem Sys2Proof.Laws.Encoding.rem (d a b : Reg) :
    Sys2Proof.Laws.Encoding.Statement (.rem d a b) :=
  Sys2Proof.Laws.Encoding.of_fields rfl rfl rfl rfl

theorem Sys2Proof.Laws.Encoding.dive (d a b : Reg) :
    Sys2Proof.Laws.Encoding.Statement (.dive d a b) :=
  Sys2Proof.Laws.Encoding.of_fields rfl rfl rfl rfl

theorem Sys2Proof.Laws.Encoding.mode (d a b : Reg) :
    Sys2Proof.Laws.Encoding.Statement (.mode d a b) :=
  Sys2Proof.Laws.Encoding.of_fields rfl rfl rfl rfl
end

