-- ==== Sys2Proof/Laws/Step.lean ====
section
/-! SUPPORT. What one command can do, and what one step can do: one inversion lemma each. -/

namespace Sys2Proof.Machine

/-- Everything a command can do to a state: one write to its target, a checked write, or a division. -/
inductive Effect (i : Instr) (s : State) : State → Prop
  | reg (rd : Reg) (v : Pattern) (h : i.target = .reg rd) : Effect i s (s.setReg rd v)
  | flagT (b : Bool) (h : i.target = .flagT) : Effect i s (s.setT b)
  | flagSG (x : Pattern) (h : i.target = .flagSG) : Effect i s (s.setSG (sgCode x))
  | dout (v : Pattern) (h : i.target = .dout) : Effect i s (s.setDout v)
  | checked (rd : Reg) (z : Pattern) (c : Cause) (h : i.target = .reg rd) (hc : c.raisedBy i = true) :
      Effect i s ((s.setReg rd z).raise c)
  | division (rd : Reg) (h : i.target = .reg rd) (hc : Cause.divideByZero.raisedBy i = true) :
      Effect i s (s.raise .divideByZero)

theorem detectAdd_cause {a b c : Int} {k : Cause} (h : detectAdd a b c = some k) : k = .overflow ∨ k = .underflow := by
  unfold detectAdd at h; split_ifs at h <;> simp_all

theorem detectSub_cause {a b c : Int} {k : Cause} (h : detectSub a b c = some k) : k = .overflow ∨ k = .underflow := by
  unfold detectSub at h; split_ifs at h <;> simp_all

theorem detectMul_cause {a b c : Int} {k : Cause} (h : detectMul a b c = some k) : k = .overflow ∨ k = .underflow := by
  unfold detectMul at h; split_ifs at h <;> simp_all

theorem detectNeg_cause {x : Pattern} {k : Cause} (h : detectNeg x = some k) : k = .overflow := by
  unfold detectNeg at h; split_ifs at h; simp_all

theorem effect_commitChecked {i : Instr} {s : State} {rd : Reg} {z : Pattern} {c : Option Cause}
    (h : i.target = .reg rd) (hc : ∀ k, c = some k → k.raisedBy i = true) : Effect i s (s.commitChecked rd z c) := by
  cases c with
  | none => exact .reg rd z h
  | some k => exact .checked rd z k h (hc k rfl)

theorem effect_commitDivision {i : Instr} {s : State} {rd : Reg} {y v : Pattern}
    (h : i.target = .reg rd) (hc : Cause.divideByZero.raisedBy i = true) : Effect i s (s.commitDivision rd y v) := by
  unfold State.commitDivision
  split
  · exact .division rd h hc
  · exact .reg rd v h

/-- Every command answers a next state, by one of the effects above. -/
theorem exec_effect (i : Instr) (s : State) : ∃ t, exec i s = .next t ∧ Effect i s t := by
  cases i
  case ldw => exact ⟨_, rfl, .reg _ _ rfl⟩
  case stw => exact ⟨_, rfl, .dout _ rfl⟩
  case mov => exact ⟨_, rfl, .reg _ _ rfl⟩
  case setu => exact ⟨_, rfl, .reg _ _ rfl⟩
  case sets => exact ⟨_, rfl, .reg _ _ rfl⟩
  case add => exact ⟨_, rfl, .reg _ _ rfl⟩
  case sub => exact ⟨_, rfl, .reg _ _ rfl⟩
  case mul => exact ⟨_, rfl, .reg _ _ rfl⟩
  case udiv => exact ⟨_, rfl, effect_commitDivision rfl rfl⟩
  case urem => exact ⟨_, rfl, effect_commitDivision rfl rfl⟩
  case eq => exact ⟨_, rfl, .flagT _ rfl⟩
  case gt => exact ⟨_, rfl, .flagT _ rfl⟩
  case gte => exact ⟨_, rfl, .flagT _ rfl⟩
  case isz => exact ⟨_, rfl, .flagT _ rfl⟩
  case not => exact ⟨_, rfl, .reg _ _ rfl⟩
  case and => exact ⟨_, rfl, .reg _ _ rfl⟩
  case or => exact ⟨_, rfl, .reg _ _ rfl⟩
  case xor => exact ⟨_, rfl, .reg _ _ rfl⟩
  case shl => exact ⟨_, rfl, .reg _ _ rfl⟩
  case shr => exact ⟨_, rfl, .reg _ _ rfl⟩
  case signum => exact ⟨_, rfl, .flagSG _ rfl⟩
  case isneg => exact ⟨_, rfl, .flagT _ rfl⟩
  case neg => exact ⟨_, rfl, effect_commitChecked rfl fun k h => by rw [detectNeg_cause h]; rfl⟩
  case abs => exact ⟨_, rfl, .reg _ _ rfl⟩
  case sgt => exact ⟨_, rfl, .flagT _ rfl⟩
  case sgte => exact ⟨_, rfl, .flagT _ rfl⟩
  case sadd =>
    exact ⟨_, rfl, effect_commitChecked rfl fun k h => by rcases detectAdd_cause h with rfl | rfl <;> rfl⟩
  case ssub =>
    exact ⟨_, rfl, effect_commitChecked rfl fun k h => by rcases detectSub_cause h with rfl | rfl <;> rfl⟩
  case smul =>
    exact ⟨_, rfl, effect_commitChecked rfl fun k h => by rcases detectMul_cause h with rfl | rfl <;> rfl⟩
  case div => exact ⟨_, rfl, effect_commitDivision rfl rfl⟩
  case mod => exact ⟨_, rfl, effect_commitDivision rfl rfl⟩
  case quo => exact ⟨_, rfl, effect_commitDivision rfl rfl⟩
  case rem => exact ⟨_, rfl, effect_commitDivision rfl rfl⟩
  case dive => exact ⟨_, rfl, effect_commitDivision rfl rfl⟩
  case mode => exact ⟨_, rfl, effect_commitDivision rfl rfl⟩

/-- The inversion form: what a next state of `exec` can be. -/
theorem effect_of_exec {i : Instr} {s t : State} (h : exec i s = .next t) : Effect i s t := by
  obtain ⟨u, hu, he⟩ := exec_effect i s
  rw [hu] at h
  cases h
  exact he

/-- What one step can be: idle, a reset, a refused command, an illegal word, or a command's effect, then the response. -/
theorem step_cases {s t : State} (h : step s = .next t) :
    (s.pending = [] ∧ t = s) ∨
    (∃ f rest, s.pending = .reset f :: rest ∧ t = { s.takeReset with pending := rest }) ∨
    (∃ c rest, s.pending = .command c :: rest ∧
      ((s.status.fault = true ∧ t = (s.accept c rest).respond) ∨
       (s.status.fault = false ∧ (∃ e, decode c.word = .error e) ∧
         t = ((s.accept c rest).raise .illegalCommand).respond) ∨
       (s.status.fault = false ∧ ∃ i u, decode c.word = .ok i ∧ Effect i (s.accept c rest) u ∧
         exec i (s.accept c rest) = .next u ∧ t = u.respond))) := by
  unfold step at h
  split at h
  · rename_i hp; cases h; exact .inl ⟨hp, rfl⟩
  · rename_i f rest hp; cases h; exact .inr (.inl ⟨f, rest, hp, rfl⟩)
  · rename_i c rest hp
    refine .inr (.inr ⟨c, rest, hp, ?_⟩)
    unfold runAccepted at h
    split at h
    · rename_i hf; cases h; exact .inl ⟨hf, rfl⟩
    · rename_i hf
      have hf' : s.status.fault = false := by simpa using hf
      split at h
      · rename_i e he; cases h; exact .inr (.inl ⟨hf', ⟨e, he⟩, rfl⟩)
      · rename_i i hi
        obtain ⟨u, hu, he⟩ := exec_effect i (s.accept c rest)
        rw [hu] at h
        cases h
        exact .inr (.inr ⟨hf', i, u, hi, he, hu, rfl⟩)

/-- Every state has a next state. -/
theorem step_next (s : State) : ∃ t, step s = .next t := by
  unfold step
  split
  · exact ⟨_, rfl⟩
  · exact ⟨_, rfl⟩
  · unfold runAccepted
    split
    · exact ⟨_, rfl⟩
    · split
      · exact ⟨_, rfl⟩
      · rename_i c rest _ _ _ i _
        obtain ⟨u, hu, _⟩ := exec_effect i (s.accept c rest)
        rw [hu]
        exact ⟨_, rfl⟩

end Sys2Proof.Machine
end

