-- ==== Sys2Proof/Tests/Slice0.lean ====
section
/-! SUPPORT. Tests. Expected results come from spec/: the examples of the rules and the vectors of 95_test_vectors.md,
named in each group's comment. Then a witness for the hypotheses of each statement that has some. -/

namespace Sys2Proof.Tests

open Sys2Proof Machine

/-- The pattern A of 95_test_vectors.md section 0. -/
def A : Pattern := 0x0123456789abcdeffedcba98765432100f1e2d3c4b5a69788796a5b4c3d2e1f0#256

/-- The pattern B of 95_test_vectors.md section 0. -/
def B : Pattern := 0x00000000ffffffff00000000ffffffff00000000ffffffff00000000ffffffff#256

/-- "starts from reset, loads `W[1]` and ... `W[2]`" (95_test_vectors.md section 0). -/
def st (x y : Pattern) : State := (State.reset.setReg 1 x).setReg 2 y

/-- From reset with DIN sampled. -/
def stDin (d : Pattern) : State := { State.reset with din := d }

/-- What `f` sees of a next state. -/
def see {α : Type} (f : State → α) : Host.Outcome State Fault Refusal → Option α
  | .next t => some (f t)
  | .fault _ => none
  | .refused _ => none

/-- `W[3]` after the one command of a single-command vector, with the STATUS byte. -/
def seeW3 (o : Host.Outcome State Fault Refusal) : Option (Pattern × BitVec 8) :=
  see (fun t => (t.reg 3, t.statusPort)) o

/-- The STATUS byte after a command. -/
def seeStatus (o : Host.Outcome State Fault Refusal) : Option (BitVec 8) := see State.statusPort o

/-- Whether an outcome is a next state. -/
def isNext (o : Host.Outcome State Fault Refusal) : Bool := (see (fun _ => ()) o).isSome

/-! ### WellFormed refuses what the word cannot express (93_implementation_defined.md U15) -/

theorem test_wf_refuses_shl_count_4096 : Instr.wf (.shl 2 1 4096) = false := by decide

theorem test_wf_refuses_shr_count_4096 : Instr.wf (.shr 2 1 4096) = false := by decide

theorem test_wf_admits_shl_count_4095 : Instr.wf (.shl 2 1 4095) = true := by decide

/-! ### Decoding: a word for each constructor, written out from the encodings of files 40 to 46 and 95 section 2.8 -/

theorem test_decode_ldw : decode 0x01f00000#32 = .ok (.ldw 15) := by rfl

theorem test_decode_stw : decode 0x02030000#32 = .ok (.stw 3) := by rfl

theorem test_decode_mov : decode 0x03210000#32 = .ok (.mov 2 1) := by rfl

theorem test_decode_setu : decode 0x04500000#32 = .ok (.setu 5) := by rfl

theorem test_decode_sets : decode 0x05500000#32 = .ok (.sets 5) := by rfl

theorem test_decode_add : decode 0x10312000#32 = .ok (.add 3 1 2) := by rfl

theorem test_decode_sub : decode 0x11312000#32 = .ok (.sub 3 1 2) := by rfl

theorem test_decode_mul : decode 0x12312000#32 = .ok (.mul 3 1 2) := by rfl

theorem test_decode_udiv : decode 0x13221000#32 = .ok (.udiv 2 2 1) := by rfl

theorem test_decode_urem : decode 0x14312000#32 = .ok (.urem 3 1 2) := by rfl

theorem test_decode_eq : decode 0x20012000#32 = .ok (.eq 1 2) := by rfl

theorem test_decode_gt : decode 0x21012000#32 = .ok (.gt 1 2) := by rfl

theorem test_decode_gte : decode 0x22021000#32 = .ok (.gte 2 1) := by rfl

theorem test_decode_isz : decode 0x23040000#32 = .ok (.isz 4) := by rfl

theorem test_decode_not : decode 0x30210000#32 = .ok (.not 2 1) := by rfl

theorem test_decode_and : decode 0x31312000#32 = .ok (.and 3 1 2) := by rfl

theorem test_decode_or : decode 0x32312000#32 = .ok (.or 3 1 2) := by rfl

theorem test_decode_xor : decode 0x33312000#32 = .ok (.xor 3 1 2) := by rfl

theorem test_decode_shl : decode 0x34210fff#32 = .ok (.shl 2 1 4095) := by rfl

theorem test_decode_shr : decode 0x35ab0100#32 = .ok (.shr 10 11 256) := by rfl

theorem test_decode_signum : decode 0x40010000#32 = .ok (.signum 1) := by rfl

theorem test_decode_isneg : decode 0x41060000#32 = .ok (.isneg 6) := by rfl

theorem test_decode_neg : decode 0x42210000#32 = .ok (.neg 2 1) := by rfl

theorem test_decode_abs : decode 0x43210000#32 = .ok (.abs 2 1) := by rfl

theorem test_decode_sgt : decode 0x44012000#32 = .ok (.sgt 1 2) := by rfl

theorem test_decode_sgte : decode 0x45087000#32 = .ok (.sgte 8 7) := by rfl

theorem test_decode_sadd : decode 0x50aa8000#32 = .ok (.sadd 10 10 8) := by rfl

theorem test_decode_ssub : decode 0x51312000#32 = .ok (.ssub 3 1 2) := by rfl

theorem test_decode_smul : decode 0x52a95000#32 = .ok (.smul 10 9 5) := by rfl

theorem test_decode_div : decode 0x60201000#32 = .ok (.div 2 0 1) := by rfl

theorem test_decode_mod : decode 0x61705000#32 = .ok (.mod 7 0 5) := by rfl

theorem test_decode_quo : decode 0x62312000#32 = .ok (.quo 3 1 2) := by rfl

theorem test_decode_rem : decode 0x63605000#32 = .ok (.rem 6 0 5) := by rfl

theorem test_decode_dive : decode 0x64905000#32 = .ok (.dive 9 0 5) := by rfl

theorem test_decode_mode : decode 0x65805000#32 = .ok (.mode 8 0 5) := by rfl

/-- The illegal words of 95_test_vectors.md section 2.8. -/
def illegalWords : List CmdWord := [
  0x00000000#32, 0xffffffff#32, 0x01010000#32, 0x01001000#32, 0x01000001#32, 0x02130000#32, 0x02031000#32,
  0x03211000#32, 0x03210001#32, 0x06000000#32, 0x0f000000#32, 0x10312001#32, 0x10312800#32, 0x15312000#32,
  0x20112000#32, 0x20012001#32, 0x23041000#32, 0x24012000#32, 0x34211000#32, 0x34211001#32, 0x36210000#32,
  0x40110000#32, 0x46012000#32, 0x53312000#32, 0x65312fff#32, 0x66312000#32, 0x70000000#32, 0x80312000#32, 0x90312000#32]

theorem test_illegal_words : (illegalWords.all fun w => !legal w) = true := by decide

theorem test_encode_shr : encode (.shr 10 11 256) = 0x35ab0100#32 := by decide

theorem test_encode_mode : encode (.mode 8 0 5) = 0x65805000#32 := by decide

theorem test_decodeTableWord_ldw : decodeTableWord 32 0x01f00000 = some (.ldw 15) := by rfl

theorem test_opcodes_distinct : (opTable.map OpRow.op).Nodup := by decide

theorem test_opTable_has_35_rows : opTable.length = 35 := by decide

/-- 30_encoding.md R80: "`0x10312000  ADD w3, w1, w2`". -/
theorem test_assembly_add : assembly (.add 3 1 2) 0 = "ADD w3, w1, w2" := by rfl

/-- 30_encoding.md R81: `LDMINS wd` is `LDW wd, =MINP`. -/
theorem test_pseudo_ldmins : pseudoLdmins 1 = ⟨0x01100000#32, minP⟩ := by decide

/-! ### One command: the vectors of 95_test_vectors.md part 2 and the examples of the rules -/

theorem test_ldw_takes_all_256_bits : see (fun t => t.reg 0) (exec (.ldw 0) (stDin (A))) = some (A) := by decide

theorem test_stw_shows_the_pattern : see (fun t => t.doutPort 0) (exec (.stw 1) (st A 0#256)) = some A := by decide

theorem test_mov_copies : seeW3 (exec (.mov 3 1) (st (A) (0#256))) = some (A, 0x00#8) := by decide

theorem test_setu_ignores_high_din : see (fun t => t.reg 2) (exec (.setu 2) (stDin (A))) = some (0x8796a5b4c3d2e1f0#256) := by decide

theorem test_setu_bit_63_is_no_sign : see (fun t => t.reg 3) (exec (.setu 3) (stDin (0xffffffffffffffffffffffffffffffffffffffffffffffff8000000000000000#256))) = some (0x8000000000000000#256) := by decide

theorem test_sets_extends_the_sign : see (fun t => t.reg 8) (exec (.sets 8) (stDin (A))) = some (0xffffffffffffffffffffffffffffffffffffffffffffffff8796a5b4c3d2e1f0#256) := by decide

theorem test_sets_ignores_high_din : see (fun t => t.reg 9) (exec (.sets 9) (stDin (0xffffffffffffffffffffffffffffffffffffffffffffffff0000000000000005#256))) = some (5#256) := by decide

theorem test_add_ripples : seeW3 (exec (.add 3 1 2) (st (0xffffffffffffffffffffffffffffffffffffffffffffffff#256) (1#256))) = some (0x1000000000000000000000000000000000000000000000000#256, 0x00#8) := by decide

theorem test_add_drops_carry : seeW3 (exec (.add 3 1 2) (st (maxU) (1#256))) = some (0#256, 0x00#8) := by decide

theorem test_sub_borrow_dropped : seeW3 (exec (.sub 3 1 2) (st (B) (A))) = some (0xfedcba997654320f0123456889abcdeef0e1d2c4b4a5968678695a4c3c2d1e0f#256, 0x00#8) := by decide

theorem test_sub_wraps : seeW3 (exec (.sub 3 1 2) (st (0#256) (1#256))) = some (maxU, 0x00#8) := by decide

theorem test_mul_multi_limb : seeW3 (exec (.mul 3 1 2) (st (A) (B))) = some (0x7878787786644220efefefef113355787878787778695a4c3c3c3c3b3c2d1e10#256, 0x00#8) := by decide

theorem test_mul_minus_one_squared : seeW3 (exec (.mul 3 1 2) (st (maxU) (maxU))) = some (1#256, 0x00#8) := by decide

theorem test_udiv_multi_limb : seeW3 (exec (.udiv 3 1 2) (st (0x100000000000000000000000000000000000000000000003039#256) (0x10000000000000007#256))) = some (0xfffffffffffffff90000000000000030ff#256, 0x00#8) := by decide

theorem test_udiv_by_zero : seeW3 (exec (.udiv 3 1 2) (st (A) (0#256))) = some (0#256, 0x07#8) := by decide

theorem test_urem_multi_limb : seeW3 (exec (.urem 3 1 2) (st (A) (B))) = some (0x8acf1356fdb97531777777770dfae7d54c7daedf8673604dc4f62757#256, 0x00#8) := by decide

theorem test_urem_by_zero_of_zero : seeW3 (exec (.urem 3 1 2) (st (0#256) (0#256))) = some (0#256, 0x07#8) := by decide

theorem test_eq_differs_in_bit_255 : seeStatus (exec (.eq 1 2) (st (A) (0x8123456789abcdeffedcba98765432100f1e2d3c4b5a69788796a5b4c3d2e1f0#256))) = some 0x00#8 := by decide

theorem test_eq_equal : seeStatus (exec (.eq 1 2) (st (A) (A))) = some 0x10#8 := by decide

theorem test_gt_limb_3_decides : seeStatus (exec (.gt 1 2) (st (0x1000000000000000000000000000000000000000000000000#256) (0xffffffffffffffffffffffffffffffffffffffffffffffff#256))) = some 0x10#8 := by decide

theorem test_gt_is_unsigned : seeStatus (exec (.gt 1 2) (st (maxS) (minP))) = some 0x00#8 := by decide

theorem test_gte_equal : seeStatus (exec (.gte 1 2) (st (A) (A))) = some 0x10#8 := by decide

theorem test_gte_less : seeStatus (exec (.gte 1 2) (st (0#256) (1#256))) = some 0x00#8 := by decide

theorem test_isz_only_limb_2 : seeStatus (exec (.isz 1) (st (0x100000000000000000000000000000000#256) (0#256))) = some 0x00#8 := by decide

theorem test_isz_zero : seeStatus (exec (.isz 1) (st (0#256) (0#256))) = some 0x10#8 := by decide

theorem test_not_minp : seeW3 (exec (.not 3 1) (st (minP) (0#256))) = some (maxS, 0x00#8) := by decide

theorem test_and_vector : seeW3 (exec (.and 3 1 2) (st (A) (B))) = some (0x89abcdef0000000076543210000000004b5a697800000000c3d2e1f0#256, 0x00#8) := by decide

theorem test_or_vector : seeW3 (exec (.or 3 1 2) (st (A) (B))) = some (0x1234567fffffffffedcba98ffffffff0f1e2d3cffffffff8796a5b4ffffffff#256, 0x00#8) := by decide

theorem test_xor_vector : seeW3 (exec (.xor 3 1 2) (st (A) (B))) = some (0x123456776543210fedcba9889abcdef0f1e2d3cb4a596878796a5b43c2d1e0f#256, 0x00#8) := by decide

theorem test_shl_200 : seeW3 (exec (.shl 3 1 200) (st (A) (0#256))) = some (0x96a5b4c3d2e1f000000000000000000000000000000000000000000000000000#256, 0x00#8) := by decide

theorem test_shl_256_is_zero : seeW3 (exec (.shl 3 1 256) (st (1#256) (0#256))) = some (0#256, 0x00#8) := by decide

theorem test_shr_is_logical : seeW3 (exec (.shr 3 1 1) (st (maxU) (0#256))) = some (maxS, 0x00#8) := by decide

theorem test_shr_256_is_zero : seeW3 (exec (.shr 3 1 256) (st (maxU) (0#256))) = some (0#256, 0x00#8) := by decide

theorem test_signum_minp : seeStatus (exec (.signum 1) (st (minP) (0#256))) = some 0x60#8 := by decide

theorem test_signum_largest_top_limb : seeStatus (exec (.signum 1) (st (0x7fffffffffffffff000000000000000000000000000000000000000000000000#256) (0#256))) = some 0x20#8 := by decide

theorem test_isneg_minp : seeStatus (exec (.isneg 1) (st (minP) (0#256))) = some 0x10#8 := by decide

theorem test_isneg_zero : seeStatus (exec (.isneg 1) (st (0#256) (0#256))) = some 0x00#8 := by decide

theorem test_neg_max_s : seeW3 (exec (.neg 3 1) (st (maxS) (0#256))) = some (0x8000000000000000000000000000000000000000000000000000000000000001#256, 0x00#8) := by decide

theorem test_neg_minp_commits_and_faults : seeW3 (exec (.neg 3 1) (st (minP) (0#256))) = some (minP, 0x03#8) := by decide

theorem test_abs_source_example : seeW3 (exec (.abs 3 1) (st (0xffffffffffffffffffffffffffffffffffffffffffffffffffffffe8b7891800#256) (0#256))) = some (0x174876e800#256, 0x00#8) := by decide

theorem test_abs_minp_no_fault : seeW3 (exec (.abs 3 1) (st (minP) (0#256))) = some (minP, 0x00#8) := by decide

theorem test_sgt_against_minus_one : seeStatus (exec (.sgt 1 2) (st (1#256) (maxU))) = some 0x10#8 := by decide

theorem test_sgt_equal : seeStatus (exec (.sgt 1 2) (st (minP) (minP))) = some 0x00#8 := by decide

theorem test_sgte_equal : seeStatus (exec (.sgte 1 2) (st (minP) (minP))) = some 0x10#8 := by decide

theorem test_sgte_extremes : seeStatus (exec (.sgte 1 2) (st (minP) (maxS))) = some 0x00#8 := by decide

theorem test_sadd_underflow : seeW3 (exec (.sadd 3 1 2) (st (minP) (maxU))) = some (maxS, 0x05#8) := by decide

theorem test_sadd_undetected : seeW3 (exec (.sadd 3 1 2) (st (minP) (minP))) = some (0#256, 0x00#8) := by decide

theorem test_ssub_overflow : seeW3 (exec (.ssub 3 1 2) (st (1#256) (minP))) = some (0x8000000000000000000000000000000000000000000000000000000000000001#256, 0x03#8) := by decide

theorem test_ssub_undetected : seeW3 (exec (.ssub 3 1 2) (st (0#256) (minP))) = some (minP, 0x00#8) := by decide

theorem test_smul_underflow : seeW3 (exec (.smul 3 1 2) (st (0xfffffffffffffffffffffffffffffffffffffffffffffffffffffffffffffffd#256) (0x4000000000000000000000000000000000000000000000000000000000000000#256))) = some (0x4000000000000000000000000000000000000000000000000000000000000000#256, 0x05#8) := by decide

theorem test_smul_both_negative_overflow : seeW3 (exec (.smul 3 1 2) (st (minP) (maxU))) = some (minP, 0x03#8) := by decide

theorem test_div_floors : seeW3 (exec (.div 3 1 2) (st (7#256) (0xfffffffffffffffffffffffffffffffffffffffffffffffffffffffffffffffd#256))) = some (0xfffffffffffffffffffffffffffffffffffffffffffffffffffffffffffffffd#256, 0x00#8) := by decide

theorem test_div_minp_by_minus_one : seeW3 (exec (.div 3 1 2) (st (minP) (maxU))) = some (minP, 0x00#8) := by decide

theorem test_mod_sign_of_divisor : seeW3 (exec (.mod 3 1 2) (st (0xa#256) (0xfffffffffffffffffffffffffffffffffffffffffffffffffffffffffffffffd#256))) = some (0xfffffffffffffffffffffffffffffffffffffffffffffffffffffffffffffffe#256, 0x00#8) := by decide

theorem test_mod_zero_by_zero : seeW3 (exec (.mod 3 1 2) (st (0#256) (0#256))) = some (0#256, 0x07#8) := by decide

theorem test_quo_truncates : seeW3 (exec (.quo 3 1 2) (st (0xfffffffffffffffffffffffffffffffffffffffffffffffffffffffffffffff9#256) (3#256))) = some (0xfffffffffffffffffffffffffffffffffffffffffffffffffffffffffffffffe#256, 0x00#8) := by decide

theorem test_quo_multi_limb : seeW3 (exec (.quo 3 1 2) (st (0xfedcba98765432100123456789abcdeff0e1d2c3b4a5968778695a4b3c2d1e10#256) (B))) = some (0xfffffffffffffffffffffffffffffffffffffffffffffffffffffffffedcba99#256, 0x00#8) := by decide

theorem test_rem_sign_of_dividend : seeW3 (exec (.rem 3 1 2) (st (0xfffffffffffffffffffffffffffffffffffffffffffffffffffffffffffffff6#256) (3#256))) = some (maxU, 0x00#8) := by decide

theorem test_rem_ignores_divisor_sign : seeW3 (exec (.rem 3 1 2) (st (7#256) (0xfffffffffffffffffffffffffffffffffffffffffffffffffffffffffffffffd#256))) = some (1#256, 0x00#8) := by decide

theorem test_dive_both_negative : seeW3 (exec (.dive 3 1 2) (st (0xfffffffffffffffffffffffffffffffffffffffffffffffffffffffffffffff9#256) (0xfffffffffffffffffffffffffffffffffffffffffffffffffffffffffffffffd#256))) = some (3#256, 0x00#8) := by decide

theorem test_dive_negative_divisor : seeW3 (exec (.dive 3 1 2) (st (8#256) (0xfffffffffffffffffffffffffffffffffffffffffffffffffffffffffffffffd#256))) = some (0xfffffffffffffffffffffffffffffffffffffffffffffffffffffffffffffffe#256, 0x00#8) := by decide

theorem test_mode_negative_divisor : seeW3 (exec (.mode 3 1 2) (st (0xfffffffffffffffffffffffffffffffffffffffffffffffffffffffffffffff8#256) (0xfffffffffffffffffffffffffffffffffffffffffffffffffffffffffffffffd#256))) = some (1#256, 0x00#8) := by decide

theorem test_mode_minus_one_by_minp : seeW3 (exec (.mode 3 1 2) (st (maxU) (minP))) = some (maxS, 0x00#8) := by decide

/-! ### The step -/

/-- P5 of 95_test_vectors.md: an illegal word with T = 1 gives STATUS = 0x19 and FCMD = the word. -/
theorem test_step_illegal_word :
    see (fun t => (t.statusPort, t.fcmd, t.rsp, t.k)) (step ((State.reset.setT true).withFetchWord 32 0x10000001)) =
      some (0x19#8, 0x10000001#32, 1, 0) := by decide

/-- P4: after a fault a legal STW is refused and DOUT stays unwritten. -/
theorem test_step_refuses_after_fault :
    see (fun t => (t.statusPort, t.doutWritten, t.rsp)) (step (((st 0 77#256).raise .divideByZero).withFetchWord 32 0x02020000)) =
      some (0x07#8, false, 1) := by decide

/-- P3: SADD of MAX_S and 1 gives STATUS = 0x03 and FCMD = the word. -/
theorem test_step_sadd_overflow :
    see (fun t => (t.reg 3, t.statusPort, t.fcmd)) (step ((st maxS 1#256).withFetchWord 32 0x50312000)) =
      some (minP, 0x03#8, 0x50312000#32) := by decide

/-- A reset with a command in flight (20_memory.md R56) leaves no mark and gives no response. -/
theorem test_step_reset_in_flight :
    see (fun t => (t.statusPort, t.fcmd, t.marked 1, t.rsp))
      (step { ((st 1 2).raise .overflow) with pending := [.reset (some ⟨0x10312000#32, 0⟩)] }) =
      some (0x00#8, 0#32, false, 0) := by decide

/-- The word of every constructor, all register fields zero but where a test above gives them, runs as the first
instruction after reset. -/
theorem test_every_command_runs_from_reset :
    ([0x01, 0x02, 0x03, 0x04, 0x05, 0x10, 0x11, 0x12, 0x13, 0x14, 0x20, 0x21, 0x22, 0x23, 0x30, 0x31, 0x32, 0x33, 0x34,
      0x35, 0x40, 0x41, 0x42, 0x43, 0x44, 0x45, 0x50, 0x51, 0x52, 0x60, 0x61, 0x62, 0x63, 0x64, 0x65].all fun op =>
      isNext (step (State.reset.withFetchWord 32 (op * 2 ^ 24)))) = true := by decide

/-- 95_test_vectors.md section 2.10: `BE32(A)` and the words of A. -/
theorem test_be32_of_A :
    be32 A = [0x01, 0x23, 0x45, 0x67, 0x89, 0xab, 0xcd, 0xef, 0xfe, 0xdc, 0xba, 0x98, 0x76, 0x54, 0x32, 0x10, 0x0f, 0x1e,
      0x2d, 0x3c, 0x4b, 0x5a, 0x69, 0x78, 0x87, 0x96, 0xa5, 0xb4, 0xc3, 0xd2, 0xe1, 0xf0] := by decide

theorem test_word32_of_A : word32 A 0 = 0x01234567#32 ∧ word32 A 7 = 0xc3d2e1f0#32 := by decide

/-! ### The limb algorithms on the spec's vectors (95_test_vectors.md section 2.2) -/

theorem test_addLimbs : addLimbs A B = (0x0123456889abcdeefedcba997654320f0f1e2d3d4b5a69778796a5b5c3d2e1ef#256, false) := by
  decide

theorem test_subLimbs_borrow : (subLimbs 0#256 1#256) = (maxU, true) := by decide

theorem test_mulLimbs : mulLimbs A B = 0x7878787786644220efefefef113355787878787778695a4c3c3c3c3b3c2d1e10#256 := by decide

theorem test_shlLimbs : shlLimbs A 65 = 0xfdb97530eca864201e3c5a7896b4d2f10f2d4b6987a5c3e00000000000000000#256 := by decide

theorem test_shrLimbs : shrLimbs A 127 = 0x02468acf13579bdffdb97530eca86420#256 := by decide

/-! ### Witnesses: states and operands that meet the hypotheses of the statements, clause by clause

In `st x y` the command `c _ 1 2` reads `x` and `y`. -/

/-- `s` with `a` as the host's next action and one more command after it. -/
def withNext (a : HostAction) (s : State) : State := { s with pending := [a, .command ⟨0x03210000#32, 0⟩] }

/-- A state with T, SG and a latched fault. -/
def faulted : State := (((st 5 7).setT true).setSG 0b11#2).raise .overflow

theorem witness_reset_clause :
    (withNext (.reset none) faulted).pending = .reset none :: [.command ⟨0x03210000#32, 0⟩] ∧
      (withNext (.reset (some ⟨0x10312000#32, 0⟩)) faulted).pending =
        .reset (some ⟨0x10312000#32, 0⟩) :: [.command ⟨0x03210000#32, 0⟩] := by decide

theorem witness_leaving_a_fault :
    ∃ t, step (withNext (.reset none) faulted) = .next t ∧
      (withNext (.reset none) faulted).status.fault = true ∧ t.status.fault = false :=
  ⟨_, rfl, by decide, by decide⟩

theorem witness_marks : (st 5 7).marked 1 = true ∧ (st 5 7).marked 0 = false ∧ (0 : Reg) ≠ 1 := by decide

theorem witness_step_runs_decoded :
    (withNext (.command ⟨0x10312000#32, 0⟩) (st 5 7)).pending =
        .command ⟨0x10312000#32, 0⟩ :: [.command ⟨0x03210000#32, 0⟩] ∧
      (withNext (.command ⟨0x10312000#32, 0⟩) (st 5 7)).status.fault = false ∧
      decode 0x10312000#32 = .ok (.add 3 1 2) := ⟨rfl, rfl, rfl⟩

theorem witness_illegal_command :
    (withNext (.command ⟨0x00000000#32, 0⟩) (st 5 7)).pending =
        .command ⟨0x00000000#32, 0⟩ :: [.command ⟨0x03210000#32, 0⟩] ∧
      (withNext (.command ⟨0x00000000#32, 0⟩) (st 5 7)).status.fault = false ∧ legal 0x00000000#32 = false := by decide

/-- With a legal command waiting and with an illegal one. -/
theorem witness_fault_refuses :
    (withNext (.command ⟨0x10312000#32, 0⟩) faulted).pending =
        .command ⟨0x10312000#32, 0⟩ :: [.command ⟨0x03210000#32, 0⟩] ∧
      (withNext (.command ⟨0x00000000#32, 0⟩) faulted).pending =
        .command ⟨0x00000000#32, 0⟩ :: [.command ⟨0x03210000#32, 0⟩] ∧
      (withNext (.command ⟨0x10312000#32, 0⟩) faulted).status.fault = true ∧
      (withNext (.command ⟨0x00000000#32, 0⟩) faulted).status.fault = true := by decide

theorem onlyCommands_withNext (c : Command) (s : State) : OnlyCommands (withNext (.command c) s).pending := by
  simp [OnlyCommands, withNext]

theorem witness_fault_freezes :
    (withNext (.command ⟨0x10312000#32, 0⟩) faulted).status.fault = true ∧
      OnlyCommands (withNext (.command ⟨0x10312000#32, 0⟩) faulted).pending :=
  ⟨rfl, onlyCommands_withNext _ _⟩

theorem witness_nothing_pending : (st 5 7).pending = [] := rfl

/-- One command that completes, one that faults. -/
theorem witness_each_command_is_answered :
    (∃ t, step (withNext (.command ⟨0x10312000#32, 0⟩) (st 5 7)) = .next t ∧ t.status.fault = false) ∧
      ∃ t, step (withNext (.command ⟨0x13312000#32, 0⟩) (st 5 0)) = .next t ∧ t.status.fault = true :=
  ⟨⟨_, rfl, by decide⟩, _, rfl, by decide⟩

/-- One list that completes, one that faults at its first command. -/
theorem witness_finite_list :
    OnlyCommands (withNext (.command ⟨0x10312000#32, 0⟩) (st 5 7)).pending ∧
      (withNext (.command ⟨0x10312000#32, 0⟩) (st 5 7)).status.fault = false ∧
      OnlyCommands (withNext (.command ⟨0x00000000#32, 0⟩) (st 5 7)).pending ∧
      (withNext (.command ⟨0x00000000#32, 0⟩) (st 5 7)).status.fault = false :=
  ⟨onlyCommands_withNext _ _, rfl, onlyCommands_withNext _ _, rfl⟩

theorem witness_dout : ((st 5 7).setDout 9).doutWritten = true ∧ (st 5 7).doutWritten = false := by decide

theorem witness_wf : Instr.wf (.add 3 1 2) = true ∧ Instr.wf (.shr 2 1 4095) = true ∧ Instr.wf (.shr 2 1 0) = true := by
  decide

/-- A faulting step and one that sets a flag, from states that meet both invariants. -/
theorem witness_invariants :
    StatusInvariant (withNext (.command ⟨0x13312000#32, 0⟩) (st 5 0)) ∧
      FaultExplained (withNext (.command ⟨0x13312000#32, 0⟩) (st 5 0)) ∧
      (∃ t, step (withNext (.command ⟨0x13312000#32, 0⟩) (st 5 0)) = .next t ∧ t.status.cause = 3) ∧
      ∃ t, step (withNext (.command ⟨0x20011000#32, 0⟩) (st 5 0)) = .next t ∧ t.status.t = true := by
  refine ⟨?_, ?_, ⟨_, rfl, by decide⟩, _, rfl, by decide⟩
  · simp only [StatusInvariant, Status.WellFormed]
    decide
  · intro h
    exact absurd h (by decide)

/-- A fault state that is explained: SADD raised Overflow. -/
theorem witness_fault_explained : FaultExplained { faulted with fcmd := 0x50312000#32 } :=
  fun _ => ⟨.overflow, by decide, show Cause.raisedBy .overflow (.sadd 3 1 2) = true by decide⟩

/-- Each target but one for each of the four kinds of target. -/
theorem witness_targets :
    (∃ t, exec (.add 3 1 2) (st 5 7) = .next t) ∧ (∃ t, exec (.eq 1 2) (st 5 7) = .next t) ∧
      (∃ t, exec (.signum 1) (st 5 7) = .next t) ∧ (∃ t, exec (.stw 1) (st 5 7) = .next t) ∧
      Instr.target (.add 3 1 2) ≠ .flagT ∧ Instr.target (.add 3 1 2) ≠ .flagSG ∧ Instr.target (.add 3 1 2) ≠ .dout ∧
      Instr.target (.add 3 1 2) ≠ .reg 1 ∧ Instr.target (.eq 1 2) ≠ .flagSG ∧ Instr.target (.signum 1) ≠ .flagT ∧
      Instr.target (.stw 1) ≠ .reg 15 :=
  ⟨⟨_, rfl⟩, ⟨_, rfl⟩, ⟨_, rfl⟩, ⟨_, rfl⟩, by decide, by decide, by decide, by decide, by decide, by decide, by decide⟩

/-- Two states that agree on `W1`, `W2` and differ in `W5` and DIN: ADD reads neither. -/
theorem witness_agreeing_sources :
    (∀ r ∈ Instr.sources (.add 3 1 2),
      (st 5 7).marked r = true ∧ ({ (st 5 7).setReg 5 9 with din := 1 } : State).marked r = true ∧
        ({ (st 5 7).setReg 5 9 with din := 1 } : State).reg r = (st 5 7).reg r) ∧
      ({ (st 5 7).setReg 5 9 with din := 1 } : State).status = (st 5 7).status ∧
      ({ (st 5 7).setReg 5 9 with din := 1 } : State).fcmd = (st 5 7).fcmd ∧
      ({ (st 5 7).setReg 5 9 with din := 1 } : State).cmd = (st 5 7).cmd ∧
      SameDout (st 5 7) { (st 5 7).setReg 5 9 with din := 1 } ∧
      (Instr.format (.add 3 1 2) = .d1 → ({ (st 5 7).setReg 5 9 with din := 1 } : State).din = (st 5 7).din) ∧
      (∃ t, exec (.add 3 1 2) (st 5 7) = .next t) ∧
      (∃ t, exec (.add 3 1 2) { (st 5 7).setReg 5 9 with din := 1 } = .next t) ∧
      Instr.target (.add 3 1 2) = .reg 3 :=
  ⟨by decide, rfl, rfl, rfl, ⟨rfl, rfl⟩, by decide, ⟨_, rfl⟩, ⟨_, rfl⟩, rfl⟩

theorem witness_high_din :
    (∀ r : Reg, (stDin A).reg r = (stDin 0x8796a5b4c3d2e1f0#256).reg r) ∧
      (stDin A).din.extractLsb' 0 64 = (stDin 0x8796a5b4c3d2e1f0#256).din.extractLsb' 0 64 ∧
      (stDin A).din ≠ (stDin 0x8796a5b4c3d2e1f0#256).din := by decide

theorem witness_signed_range :
    InSignedRange (-(2 ^ 255)) ∧ InSignedRange (2 ^ 255 - 1) ∧ ¬ InSignedRange (2 ^ 255) ∧
      ¬ InSignedRange (-(2 ^ 255) - 1) := by
  simp only [InSignedRange]
  decide

theorem witness_mov_source_kept : (1 : Reg) ≠ 3 := by decide

theorem witness_divider : (2 : Pattern) ≠ 0 ∧ (7 : Pattern).toNat = 3 * (2 : Pattern).toNat + 1 ∧ 1 < (2 : Pattern).toNat := by
  decide

/-- Zero and non-zero divisors, for UDIV, UREM, QUO, REM, DIV, MOD, DIVE, MODE; the least divisor, and the last. -/
theorem witness_divisors :
    (st 5 0).srcB 2 = 0 ∧ (st 5 1).srcB 2 ≠ 0 ∧ (st minP maxU).srcB 2 ≠ 0 := by decide

theorem witness_shift_counts : 256 ≤ 256 ∧ 256 ≤ 4095 ∧ 255 < 256 ∧ 0 < 256 := by decide

theorem witness_bit_numbers : 0 < 256 ∧ 255 < 256 := by decide

theorem witness_signum :
    signed ((st 0 0).srcA 1) = 0 ∧ 0 < signed ((st maxS 0).srcA 1) ∧ 0 < signed ((st 1 0).srcA 1) ∧
      signed ((st minP 0).srcA 1) < 0 ∧ signed ((st maxU 0).srcA 1) < 0 := by decide

theorem witness_neg : (st minP 0).srcA 1 = minP ∧ (st (minP + 1) 0).srcA 1 ≠ minP ∧ (st maxS 0).srcA 1 ≠ minP := by decide

theorem witness_sign_laws : 0 ≤ signum 0 ∧ 0 ≤ signum maxS ∧ signum minP < 0 ∧ signum maxU < 0 ∧ maxU ≠ minP := by decide

/-- Overflow, underflow, neither, at the ends of the range: SADD. -/
theorem witness_sadd :
    (0 < signed maxS ∧ 0 < signed 1 ∧ signed (maxS + 1) < 0) ∧
      (signed minP < 0 ∧ signed maxU < 0 ∧ 0 < signed (minP + maxU)) ∧
      signed (maxS + 0) = 2 ^ 255 - 1 ∧ signed (minP + minP) = 0 := by decide

/-- The same for SSUB. -/
theorem witness_ssub :
    (0 < signed 1 ∧ signed minP < 0 ∧ signed (1 - minP) < 0) ∧
      (signed minP < 0 ∧ 0 < signed 1 ∧ 0 < signed (minP - 1)) ∧ signed (0 - minP) < 0 := by decide

/-- The same for SMUL. -/
theorem witness_smul :
    (0 < signed maxS ∧ 0 < signed 3 ∧ ¬ signed (maxS * 3) < 0) ∧ (0 < signed maxS ∧ 0 < signed 2 ∧ signed (maxS * 2) < 0) ∧
      (signed minP < 0 ∧ signed maxU < 0 ∧ signed (minP * maxU) < 0) ∧
      (signed minP < 0 ∧ 0 < signed 2 ∧ signed (minP * 2) = 0) ∧
      (signed (minP + 1) < 0 ∧ 0 < signed 2 ∧ 0 < signed ((minP + 1) * 2)) := by decide

/-- In range, out of range and detected, out of range and undetected, for each detector. -/
theorem witness_detectors :
    (st 5 7).status.fault = false ∧
      (InSignedRange (signed maxS + signed 0) ∧ ¬ InSignedRange (signed maxS + signed 1) ∧
        ¬ InSignedRange (signed minP + signed minP)) ∧
      (InSignedRange (signed minP - signed 0) ∧ ¬ InSignedRange (signed minP - signed 1) ∧
        ¬ InSignedRange (signed 0 - signed minP)) ∧
      InSignedRange (signed minP * signed 1) ∧ ¬ InSignedRange (signed minP * signed maxU) ∧
        ¬ InSignedRange (signed maxS * signed 3) := by
  simp only [InSignedRange]
  decide

/-- The pair whose quotient does not fit, and divisors of pairs other than (MINP, U(-1)). -/
theorem witness_division_pairs :
    ((st minP maxU).srcA 1 = minP ∧ (st minP maxU).srcB 2 = maxU) ∧ (1 : Pattern) ≠ 0 ∧ maxU ≠ 0 ∧ (1 : Pattern) ≠ maxU ∧
      maxS ≠ minP := by decide

/-- Products of signed quotient and divisor in range, also with an inexact division, and out of range. -/
theorem witness_checked_identity :
    (3 : Pattern) ≠ 0 ∧ minP ≠ 0 ∧ InSignedRange (signed (floorQuo (neg256 7) 3) * signed 3) ∧
      InSignedRange (signed (euclidQuo (neg256 7) 3) * signed 3) ∧ ¬ InSignedRange (signed (floorQuo minP 3) * signed 3) ∧
      ¬ InSignedRange (signed (euclidQuo minP 3) * signed 3) ∧ ¬ InSignedRange (signed (floorQuo 1 minP) * signed minP) := by
  simp only [InSignedRange]
  decide

end Sys2Proof.Tests
end

section
/-! The views of a pattern (00_scope.md R10 to R12, 20_memory.md R58): the signed number that it stands for, and the
limbs, bytes and words that it is cut into. -/

namespace Sys2Proof.Machine

/-! ### The signed view is the two's complement number (00_scope.md R12) -/

theorem signed_eq_toInt (p : Pattern) : signed p = p.toInt := by
  simp [signed, BitVec.toInt_eq_msb_cond]

theorem signed_inSignedRange (p : Pattern) : InSignedRange (signed p) := by
  have hlow := BitVec.le_toInt p
  have hhigh := BitVec.toInt_lt (x := p)
  rw [signed_eq_toInt]
  exact ⟨hlow, Int.le_sub_one_of_lt hhigh⟩

@[simp] theorem toPattern_signed (p : Pattern) : toPattern (signed p) = p := by
  rw [signed_eq_toInt, toPattern, BitVec.ofInt_toInt]

theorem signed_toPattern {v : Int} (h : InSignedRange v) : signed (toPattern v) = v := by
  rw [signed_eq_toInt, toPattern]
  exact BitVec.toInt_ofInt_eq_self (by decide) h.1 (Int.lt_of_le_sub_one h.2)

theorem toNat_toPattern (v : Int) : ((toPattern v).toNat : Int) = v % 2 ^ 256 := by
  rw [toPattern, BitVec.toNat_ofInt]
  exact Int.toNat_of_nonneg (Int.emod_nonneg v (by decide))

/-- Settles O23: `signed` is `BitVec.toInt`, whose range and whose inverse `BitVec.ofInt` the library knows. -/
theorem signedViewIsTwosComplement : Obligations.SignedViewIsTwosComplement := by
  refine ⟨fun p => ⟨?_, signed_inSignedRange p, toPattern_signed p⟩, fun v => signed_toPattern, toNat_toPattern, ?_⟩
  · rw [signed, BitVec.msb_eq_getLsbD_last]
  · decide

/-! ### Limbs (00_scope.md R11) -/

theorem toNat_slice (p : Pattern) (lo len : Nat) : (p.extractLsb' lo len).toNat = p.toNat / 2 ^ lo % 2 ^ len := by
  rw [BitVec.extractLsb'_toNat, Nat.shiftRight_eq_div_pow]

theorem toNat_limb (p : Pattern) (i : Nat) : (limb p i).toNat = p.toNat / 2 ^ (64 * i) % 2 ^ 64 :=
  toNat_slice p (64 * i) 64

theorem toNat_ofLimbs (z3 z2 z1 z0 : Limb) :
    (ofLimbs z3 z2 z1 z0).toNat = z0.toNat + 2 ^ 64 * z1.toNat + 2 ^ 128 * z2.toNat + 2 ^ 192 * z3.toNat := by
  simp only [ofLimbs, toNat_append_eq]
  omega

theorem toNat_eq_sum_limbs (p : Pattern) :
    p.toNat = (limb p 0).toNat + 2 ^ 64 * (limb p 1).toNat + 2 ^ 128 * (limb p 2).toNat + 2 ^ 192 * (limb p 3).toNat := by
  have hp := p.isLt
  simp only [toNat_limb]
  omega

@[simp] theorem ofLimbs_limb (p : Pattern) : ofLimbs (limb p 3) (limb p 2) (limb p 1) (limb p 0) = p := by
  apply BitVec.eq_of_toNat_eq
  rw [toNat_ofLimbs, ← toNat_eq_sum_limbs]

/-! ### Bytes and words, most significant first (20_memory.md R58) -/

/-- Digit `k` of the `n` lowest base-`b` digits of `x`, counted from the most significant one. -/
def digitMsb (b x n : Nat) (k : Fin n) : Nat := x / b ^ (n - 1 - k) % b

theorem digitMsb_last (b x n : Nat) : digitMsb b x (n + 1) (Fin.last n) = x % b := by
  simp [digitMsb]

/-- The digits above the lowest one are the digits of `x / b`. -/
theorem digitMsb_castSucc (b x n : Nat) (k : Fin n) : digitMsb b x (n + 1) k.castSucc = digitMsb b (x / b) n k := by
  have hexp : n + 1 - 1 - (k : Nat) = n - 1 - k + 1 := by omega
  rw [digitMsb, digitMsb, Fin.val_castSucc, hexp, Nat.pow_succ', Nat.div_div_eq_div_mul]

/-- Horner's rule over the `n` lowest digits gives the number modulo `b ^ n`. -/
theorem foldl_digitMsb (b n x : Nat) :
    (List.finRange n).foldl (fun acc k => b * acc + digitMsb b x n k) 0 = x % b ^ n := by
  induction n generalizing x with
  | zero => simp [Nat.mod_one]
  | succ n ih =>
    rw [List.finRange_succ_last, List.foldl_append, List.foldl_map]
    simp only [digitMsb_castSucc, ih, List.foldl_cons, List.foldl_nil, digitMsb_last]
    rw [Nat.pow_succ', Nat.mod_mul, Nat.add_comm]

theorem toNat_be32Byte (p : Pattern) (k : Fin 32) : (be32Byte p k).toNat = digitMsb 256 p.toNat 32 k := by
  have hexp : 248 - 8 * (k : Nat) = 8 * (32 - 1 - k) := by omega
  have hbase : (2 : Nat) ^ 8 = 256 := by decide
  rw [be32Byte, toNat_slice, hexp, Nat.pow_mul, hbase, digitMsb]

theorem toNat_word32 (p : Pattern) (j : Fin 8) : (word32 p j).toNat = digitMsb (2 ^ 32) p.toNat 8 j := by
  have hexp : 224 - 32 * (j : Nat) = 32 * (8 - 1 - j) := by omega
  rw [word32, toNat_slice, hexp, Nat.pow_mul, digitMsb]

@[simp] theorem length_be32 (p : Pattern) : (be32 p).length = 32 := by
  simp [be32]

theorem foldl_be32 (p : Pattern) : (be32 p).foldl (fun acc b => 256 * acc + b.toNat) 0 = p.toNat := by
  rw [be32, List.foldl_map]
  simp only [toNat_be32Byte]
  rw [foldl_digitMsb]
  exact Nat.mod_eq_of_lt p.isLt

theorem foldl_word32 (p : Pattern) :
    ((List.finRange 8).map (word32 p)).foldl (fun acc w => 2 ^ 32 * acc + w.toNat) 0 = p.toNat := by
  rw [List.foldl_map]
  simp only [toNat_word32]
  rw [foldl_digitMsb]
  exact Nat.mod_eq_of_lt p.isLt

/-- Settles O24: the limbs by arithmetic, the bytes and words by Horner's rule in base 2^8 and 2^32. -/
theorem limbsBytesAndWordsRebuildThePattern : Obligations.LimbsBytesAndWordsRebuildThePattern := fun p =>
  ⟨ofLimbs_limb p, toNat_eq_sum_limbs p, length_be32 p, (foldl_be32 p).symm, (foldl_word32 p).symm⟩

end Sys2Proof.Machine
end

section
/-! The architectural state (10_state.md R20 to R32): what one command leaves as it was, the invariant of STATUS and
FCMD, what a command's results depend on, the response to a command, and reset, reads and output ports. -/

namespace Sys2Proof.Machine

/-! ### What a command's effect leaves unchanged (10_state.md R23, R27 to R29) -/

section EffectFrame

variable {i : Instr} {s t : State}

theorem Effect.sameHost (h : Effect i s t) : SameHost s t := by
  cases h <;> exact ⟨rfl, rfl, rfl, rfl, rfl⟩

/-- Only the target register can differ, in its value or in its mark. -/
theorem Effect.other_register (h : Effect i s t) {r : Reg} (hr : i.target ≠ .reg r) :
    t.reg r = s.reg r ∧ t.marked r = s.marked r := by
  have hne : ∀ {rd}, i.target = .reg rd → r ≠ rd := fun htarget heq => hr (heq ▸ htarget)
  cases h with
  | reg rd v h | checked rd v _ h => exact ⟨s.setReg_reg_of_ne v (hne h), s.setReg_marked_of_ne v (hne h)⟩
  | flagT | flagSG | dout | division => exact ⟨rfl, rfl⟩

theorem Effect.flagT_unchanged (h : Effect i s t) (hT : i.target ≠ .flagT) : t.status.t = s.status.t := by
  cases h with
  | flagT b h => exact absurd h hT
  | reg | flagSG | dout | checked | division => rfl

theorem Effect.flagSG_unchanged (h : Effect i s t) (hSG : i.target ≠ .flagSG) : t.status.sg = s.status.sg := by
  cases h with
  | flagSG x h => exact absurd h hSG
  | reg | flagT | dout | checked | division => rfl

theorem Effect.sameDout (h : Effect i s t) (hD : i.target ≠ .dout) : SameDout s t := by
  cases h with
  | dout v h => exact absurd h hD
  | reg | flagT | flagSG | checked | division => exact ⟨rfl, rfl⟩

theorem Effect.reserved_unchanged (h : Effect i s t) : t.status.reserved = s.status.reserved := by
  cases h <;> rfl

/-- The latch of FAULT, CAUSE and FCMD is as before, or a fault has been entered with the sampled word. -/
theorem Effect.latch (h : Effect i s t) :
    t.fcmd = s.fcmd ∧ t.status.fault = s.status.fault ∧ t.status.cause = s.status.cause ∨
      t.fcmd = s.cmd ∧ t.status.fault = true := by
  cases h with
  | reg | flagT | flagSG | dout => exact .inl ⟨rfl, rfl, rfl⟩
  | checked | division => exact .inr ⟨rfl, rfl⟩

end EffectFrame

/-- Settles O19: each flag, DOUT and the latch through the effects that `exec` can have. -/
theorem flagsAndDoutChangeOnlyWhereComputed : Obligations.FlagsAndDoutChangeOnlyWhereComputed := by
  intro i s t h
  have he := effect_of_exec h
  exact ⟨he.flagT_unchanged, he.flagSG_unchanged, he.sameDout, he.reserved_unchanged, he.latch⟩

/-- Settles O20: no effect of `exec` reaches another register or the host's side. -/
theorem onlyTheDestinationRegisterChanges : Obligations.OnlyTheDestinationRegisterChanges := by
  intro i s t h
  have he := effect_of_exec h
  exact ⟨fun _ hr => he.other_register hr, he.sameHost⟩

/-! ### The invariant of STATUS and FCMD (10_state.md R26, R28) -/

theorem Cause.code_toNat_le (c : Cause) : c.code.toNat ≤ 4 := by
  cases c <;> decide

theorem Cause.code_ne_zero (c : Cause) : c.code ≠ 0 := by
  cases c <;> decide

theorem sgCode_ne_reserved (x : Pattern) : sgCode x ≠ 0b10#2 := by
  unfold sgCode
  split_ifs <;> decide

theorem statusInvariant_reset : StatusInvariant State.reset := by
  simp [StatusInvariant, Status.WellFormed, State.reset, Status.reset]

section Invariant

variable {s t : State} (h : StatusInvariant s)
include h

/-- The invariant speaks of STATUS and FCMD only. -/
theorem statusInvariant_of_eq (hstatus : t.status = s.status) (hfcmd : t.fcmd = s.fcmd) : StatusInvariant t := by
  rw [StatusInvariant, hstatus, hfcmd]
  exact h

theorem statusInvariant_setT (b : Bool) : StatusInvariant (s.setT b) := h

theorem statusInvariant_setSG {v : BitVec 2} (hv : v ≠ 0b10#2) : StatusInvariant (s.setSG v) := by
  obtain ⟨⟨hbit7, -, hcause, hfault⟩, hfcmd⟩ := h
  exact ⟨⟨hbit7, hv, hcause, hfault⟩, hfcmd⟩

/-- Fault entry sets FAULT with a non-zero CAUSE, so FCMD is free. -/
theorem statusInvariant_raise (c : Cause) : StatusInvariant (s.raise c) := by
  obtain ⟨⟨hbit7, hsg, -, -⟩, -⟩ := h
  exact ⟨⟨hbit7, hsg, c.code_toNat_le, iff_of_true rfl c.code_ne_zero⟩, fun hf => absurd hf (by simp)⟩

theorem statusInvariant_effect {i : Instr} (he : Effect i s t) : StatusInvariant t := by
  cases he with
  | reg => exact statusInvariant_of_eq h rfl rfl
  | flagT b => exact statusInvariant_setT h b
  | flagSG x => exact statusInvariant_setSG h (sgCode_ne_reserved x)
  | dout => exact statusInvariant_of_eq h rfl rfl
  | checked rd z c => exact statusInvariant_raise (statusInvariant_of_eq h rfl rfl) c
  | division => exact statusInvariant_raise h .divideByZero

end Invariant

/-- Settles O17: by the cases of a step; reset starts it afresh, acceptance and response do not touch it. -/
theorem stepKeepsStatusInvariant : Obligations.StepKeepsStatusInvariant := by
  intro s t h hstep
  obtain ⟨-, rfl⟩ | ⟨f, rest, -, rfl⟩ | ⟨c, rest, -, hcommand⟩ := step_cases hstep
  · exact h
  · exact statusInvariant_of_eq statusInvariant_reset rfl rfl
  · have haccept : StatusInvariant (s.accept c rest) := statusInvariant_of_eq h rfl rfl
    obtain ⟨-, rfl⟩ | ⟨-, -, rfl⟩ | ⟨-, i, u, -, heffect, -, rfl⟩ := hcommand
    · exact statusInvariant_of_eq haccept rfl rfl
    · exact statusInvariant_of_eq (statusInvariant_raise haccept .illegalCommand) rfl rfl
    · exact statusInvariant_of_eq (statusInvariant_effect haccept heffect) rfl rfl

/-- Settles O16: FAULT = 0 after reset, so there is no fault to explain. -/
theorem resetMeetsTheInvariants : Obligations.ResetMeetsTheInvariants :=
  ⟨statusInvariant_reset, fun hfault => absurd hfault (by decide)⟩

/-! ### What the results depend on (10_state.md R23, R24, 30_encoding.md R73) -/

/-- The source registers of `i` have been written in both states and hold the same patterns. -/
def SourcesAgree (i : Instr) (s s' : State) : Prop :=
  ∀ r ∈ i.sources, s.marked r = true ∧ s'.marked r = true ∧ s'.reg r = s.reg r

theorem SourcesAgree.read_eq {i : Instr} {s s' : State} (h : SourcesAgree i s s') (port : Nat) {r : Reg}
    (hr : r ∈ i.sources) : s'.read port r = s.read port r := by
  obtain ⟨hs, hs', hreg⟩ := h r hr
  rw [s.read_of_marked port hs, s'.read_of_marked port hs', hreg]

/-- `t` and `t'` come from `s` and `s'` by one operation of `i`, with the same values. -/
inductive SameOperation (i : Instr) (s s' : State) : State → State → Prop
  | reg (rd : Reg) (v : Pattern) (h : i.target = .reg rd) : SameOperation i s s' (s.setReg rd v) (s'.setReg rd v)
  | flagT (b : Bool) (h : i.target = .flagT) : SameOperation i s s' (s.setT b) (s'.setT b)
  | flagSG (v : BitVec 2) (h : i.target = .flagSG) : SameOperation i s s' (s.setSG v) (s'.setSG v)
  | dout (v : Pattern) (h : i.target = .dout) : SameOperation i s s' (s.setDout v) (s'.setDout v)
  | checked (rd : Reg) (z : Pattern) (c : Cause) (h : i.target = .reg rd) :
      SameOperation i s s' ((s.setReg rd z).raise c) ((s'.setReg rd z).raise c)
  | division : SameOperation i s s' (s.raise .divideByZero) (s'.raise .divideByZero)

theorem sameOperation_commitChecked {i : Instr} {rd : Reg} (h : i.target = .reg rd) (s s' : State) (z : Pattern)
    (c : Option Cause) : SameOperation i s s' (s.commitChecked rd z c) (s'.commitChecked rd z c) := by
  cases c with
  | none => exact .reg rd z h
  | some c => exact .checked rd z c h

theorem sameOperation_commitDivision {i : Instr} {rd : Reg} (h : i.target = .reg rd) (s s' : State) (y v : Pattern) :
    SameOperation i s s' (s.commitDivision rd y v) (s'.commitDivision rd y v) := by
  unfold State.commitDivision
  split
  · exact .division
  · exact .reg rd v h

/-- Where the sources agree, and DIN for format D1, `exec` does the same operation in both states. -/
theorem exec_sameOperation {i : Instr} {s s' : State} (h : SourcesAgree i s s')
    (hdin : i.format = .d1 → s'.din = s.din) :
    ∃ t t', exec i s = .next t ∧ exec i s' = .next t' ∧ SameOperation i s s' t t' := by
  have hA : ∀ r ∈ i.sources, s'.srcA r = s.srcA r := fun _ => h.read_eq 0
  have hB : ∀ r ∈ i.sources, s'.srcB r = s.srcB r := fun _ => h.read_eq 1
  cases i <;> refine ⟨_, _, rfl, rfl, ?_⟩ <;>
    simp only [Instr.sources, List.forall_mem_cons, List.not_mem_nil, false_implies, implies_true, and_true] at hA hB
  case ldw => rw [hdin rfl]; exact .reg _ _ rfl
  case setu | sets =>
    have hlow : s'.din64 = s.din64 := by rw [State.din64, hdin rfl, State.din64]
    rw [hlow]
    exact .reg _ _ rfl
  case mov | not | abs | shl | shr => rw [hA]; exact .reg _ _ rfl
  case add | sub | mul | and | or | xor => rw [hA.1, hB.2]; exact .reg _ _ rfl
  case isz | isneg => rw [hA]; exact .flagT _ rfl
  case eq | gt | gte | sgt | sgte => rw [hA.1, hB.2]; exact .flagT _ rfl
  case signum => rw [hA]; exact .flagSG _ rfl
  case stw => rw [hA]; exact .dout _ rfl
  case neg => rw [hA]; exact sameOperation_commitChecked rfl s s' _ _
  case sadd | ssub | smul => rw [hA.1, hB.2]; exact sameOperation_commitChecked rfl s s' _ _
  case udiv | urem | div | mod | quo | rem | dive | mode =>
    rw [hA.1, hB.2]
    exact sameOperation_commitDivision rfl s s' _ _

section SameOperation

variable {i : Instr} {s s' t t' : State} (h : SameOperation i s s' t t')
include h

theorem SameOperation.status_eq (hs : s'.status = s.status) : t'.status = t.status := by
  cases h with
  | reg | dout => exact hs
  | flagT | flagSG | checked | division => simp [hs]

theorem SameOperation.fcmd_eq (hf : s'.fcmd = s.fcmd) (hcmd : s'.cmd = s.cmd) : t'.fcmd = t.fcmd := by
  cases h with
  | reg | flagT | flagSG | dout => exact hf
  | checked | division => exact hcmd

theorem SameOperation.sameDout (hd : SameDout s s') : SameDout t t' := by
  cases h with
  | dout => exact ⟨rfl, rfl⟩
  | reg | flagT | flagSG | checked | division => exact hd

/-- The target register ends the same in both runs, unless a division by zero left it alone in both. -/
theorem SameOperation.target_register {r : Reg} (hr : i.target = .reg r) :
    (t'.reg r = t.reg r ∧ t'.marked r = t.marked r) ∨
      (t.status.fault = true ∧ t.reg r = s.reg r ∧ t'.reg r = s'.reg r) := by
  cases h with
  | reg rd v h | checked rd v c h =>
    cases h.symm.trans hr
    exact .inl (by simp)
  | flagT _ h | flagSG _ h | dout _ h => cases h.symm.trans hr
  | division => exact .inr ⟨rfl, rfl, rfl⟩

end SameOperation

/-- Settles O21: the two runs do one operation with the same values. -/
theorem resultsDependOnlyOnSources : Obligations.ResultsDependOnlyOnSources := by
  intro i s s' t t' hsources hstatus hfcmd hcmd hdout hdin ht ht'
  obtain ⟨u, u', hu, hu', hop⟩ := exec_sameOperation hsources hdin
  cases hu.symm.trans ht
  cases hu'.symm.trans ht'
  exact ⟨hop.status_eq hstatus, hop.fcmd_eq hfcmd hcmd, hop.sameDout hdout, fun _ => hop.target_register⟩

/-! ### The response to a command (10_state.md R25, 20_memory.md R51, R52, R55) -/

/-- `t` ends the transaction of command `c` begun in `s`: the inputs are sampled, one response is given, and `k` moves
on exactly when FAULT = 0. -/
def Answered (s : State) (c : Command) (rest : List HostAction) (t : State) : Prop :=
  t.rsp = s.rsp + 1 ∧ t.pending = rest ∧ t.cmd = c.word ∧ t.din = c.din ∧
    (t.status.fault = true → t.k = s.k) ∧ (t.status.fault = false → t.k = s.k + 1)

/-- Whatever the command did to the core, its response ends the transaction. -/
theorem respond_answered {s u : State} {c : Command} {rest : List HostAction} (h : SameHost (s.accept c rest) u) :
    Answered s c rest u.respond := by
  obtain ⟨hcmd, hdin, hpending, hk, hrsp⟩ := h
  have hnext : u.respond.k = if u.status.fault then s.k else s.k + 1 := by
    rw [State.respond_k, hk, State.accept_k]
  exact ⟨congrArg (· + 1) hrsp, hpending, hcmd, hdin, fun hfault => hnext.trans (if_pos hfault),
    fun hfault => hnext.trans (if_neg (Bool.eq_false_iff.1 hfault))⟩

/-- Settles O9: a refused, an illegal and an executed command each leave the host's side alone until the response. -/
theorem eachCommandIsAnsweredOnce : Obligations.EachCommandIsAnsweredOnce := by
  intro s t c rest hpending hstep
  obtain ⟨hnone, -⟩ | ⟨f, rest', hreset, -⟩ | ⟨c', rest', hcommand, hcases⟩ := step_cases hstep
  · cases hpending.symm.trans hnone
  · cases hpending.symm.trans hreset
  · cases hpending.symm.trans hcommand
    obtain ⟨-, rfl⟩ | ⟨-, -, rfl⟩ | ⟨-, i, u, -, heffect, -, rfl⟩ := hcases
    · exact respond_answered (State.sameHost_refl _)
    · obtain ⟨-, -, -, hhost⟩ := (s.accept c rest).raise_faultsOnly .illegalCommand
      exact respond_answered hhost
    · exact respond_answered heffect.sameHost

/-! ### Reset, reads and output ports (10_state.md R26, R31, R32, 20_memory.md R54) -/

/-- Settles O1: every field by its value in `State.reset`, every mark by `State.reset_marked`. -/
theorem resetStateIsAsTabulated : Obligations.ResetStateIsAsTabulated :=
  ⟨by decide, rfl, rfl, rfl, rfl, rfl, rfl, State.reset_marked, rfl⟩

theorem State.read_setReg_self (s : State) (port : Nat) (r : Reg) (v : Pattern) : (s.setReg r v).read port r = v := by
  rw [State.read_of_marked _ _ (s.setReg_marked_self r v), s.setReg_reg_self]

theorem State.read_setReg_of_ne (s : State) (port : Nat) {r q : Reg} (v : Pattern) (h : q ≠ r) :
    (s.setReg r v).read port q = s.read port q := by
  simp [State.read, s.setReg_marked_of_ne v h, s.setReg_reg_of_ne v h]

theorem State.read_takeReset (s : State) (port : Nat) (q : Reg) :
    s.takeReset.read port q = Config.unwritten s.rsp port :=
  State.read_of_unmarked _ port (s.takeReset_marked q)

/-- Settles O3, from the read-after-write laws and the two cases of the mark. -/
theorem readsFollowTheWrittenMark : Obligations.ReadsFollowTheWrittenMark := fun s port r v =>
  ⟨s.read_setReg_self port r v, fun _ => s.read_setReg_of_ne port v, s.read_of_marked port, s.read_of_unmarked port,
    s.read_takeReset port⟩

section StatusByte

variable (st : Status)

theorem Status.byte_fault : st.byte.extractLsb' 0 1 = BitVec.ofBool st.fault :=
  BitVec.extractLsb'_append_eq_right

theorem Status.byte_cause : st.byte.extractLsb' 1 3 = st.cause :=
  (BitVec.extractLsb'_append_eq_of_le (by decide)).trans BitVec.extractLsb'_append_eq_right

theorem Status.byte_t : st.byte.extractLsb' 4 1 = BitVec.ofBool st.t :=
  (BitVec.extractLsb'_append_eq_of_le (by decide)).trans <|
    (BitVec.extractLsb'_append_eq_of_le (by decide)).trans BitVec.extractLsb'_append_eq_right

theorem Status.byte_sg : st.byte.extractLsb' 5 2 = st.sg :=
  (BitVec.extractLsb'_append_eq_of_le (by decide)).trans <|
    (BitVec.extractLsb'_append_eq_of_le (by decide)).trans <|
      (BitVec.extractLsb'_append_eq_of_le (by decide)).trans BitVec.extractLsb'_append_eq_right

theorem Status.byte_reserved : st.byte.extractLsb' 7 1 = BitVec.ofBool st.reserved :=
  (BitVec.extractLsb'_append_eq_of_le (by decide)).trans <|
    (BitVec.extractLsb'_append_eq_of_le (by decide)).trans <|
      (BitVec.extractLsb'_append_eq_of_le (by decide)).trans BitVec.extractLsb'_append_eq_left

end StatusByte

theorem State.doutPort_of_written (s : State) (look : Nat) (h : s.doutWritten = true) : s.doutPort look = s.dout :=
  if_pos h

theorem State.doutPort_of_unwritten (s : State) (look : Nat) (h : s.doutWritten = false) :
    s.doutPort look = Config.unwrittenDout s.rsp look :=
  if_neg (Bool.eq_false_iff.1 h)

/-- Settles O11: each field is the slice of the byte at its place; `dout` goes by its mark. -/
theorem outputPortsShowTheState : Obligations.OutputPortsShowTheState := fun s =>
  ⟨s.status.byte_fault, s.status.byte_cause, s.status.byte_t, s.status.byte_sg, s.status.byte_reserved, rfl, rfl,
    s.doutPort_of_written, s.doutPort_of_unwritten⟩

end Sys2Proof.Machine
end

section
/-! The command transaction (20_memory.md R52 to R56): what the step does with each next action of the host, said once
per case, and from that reset, the refusal of commands while FAULT = 1, and totality. -/

namespace Sys2Proof.Machine

/-! ### The instruction that a word decodes to is well formed (30_encoding.md R72, R76) -/

/-- The rows of SHL and SHR pass the count field on; every other row builds an instruction without a count. -/
theorem build_wf {row : OpRow} (h : row ∈ opTable) (rd ra rb : Reg) {n : Nat} (hn : n < 4096) :
    (row.build rd ra rb n).wf = true := by
  have hall : ∀ row ∈ opTable, (row.build rd ra rb n).wf = true := by
    simp [opTable, moveRows, arithRows, compareRows, bitwiseRows, signRows, checkedRows, divisionRows, Instr.wf, hn]
  exact hall row h

theorem decode_wf {w : CmdWord} {i : Instr} (h : decode w = .ok i) : i.wf = true := by
  obtain ⟨row, hrow, -, rfl⟩ := row_of_decode h
  exact build_wf hrow _ _ _ (w.extractLsb' 0 12).isLt

/-! ### The step, by the host's next action (20_memory.md R53, R55, R56, 60_exceptions.md R264) -/

section StepEquations

variable {s : State} {c : Command} {rest : List HostAction}

theorem step_of_idle (h : s.pending = []) : step s = .next s := by
  rw [step, h, runIdle]

theorem step_of_reset {f : Option Command} (h : s.pending = .reset f :: rest) :
    step s = .next { s.takeReset with pending := rest } := by
  rw [step, h]
  rfl

theorem step_of_command (h : s.pending = .command c :: rest) : step s = runAccepted (s.accept c rest) := by
  rw [step, h]

theorem step_of_refused (h : s.pending = .command c :: rest) (hfault : s.status.fault = true) :
    step s = .next (s.accept c rest).respond := by
  rw [step_of_command h, runAccepted, State.accept_status, if_pos hfault]

theorem step_of_legal {i : Instr} (h : s.pending = .command c :: rest) (hfault : s.status.fault = false)
    (hdecode : decode c.word = .ok i) : step s = finish (exec i (s.accept c rest)) := by
  rw [step_of_command h, runAccepted, State.accept_status, if_neg (Bool.eq_false_iff.1 hfault), State.accept_cmd,
    hdecode]

end StepEquations

/-! ### Reset, refusal, totality -/

@[simp] theorem Status.byte_reset : Status.reset.byte = 0x00#8 := by
  decide

/-- A step out of the fault state is a reset: idle and a refused command leave STATUS alone, and no other command is
executed while FAULT = 1. -/
theorem reset_of_leaves_fault {s t : State} (hstep : step s = .next t) (hs : s.status.fault = true)
    (ht : t.status.fault = false) : ∃ f rest, s.pending = .reset f :: rest := by
  obtain ⟨-, rfl⟩ | ⟨f, rest, hreset, -⟩ | ⟨c, rest, -, hcommand⟩ := step_cases hstep
  · cases hs.symm.trans ht
  · exact ⟨f, rest, hreset⟩
  · obtain ⟨-, rfl⟩ | ⟨hsafe, -⟩ | ⟨hsafe, -⟩ := hcommand
    · cases hs.symm.trans ht
    · cases hs.symm.trans hsafe
    · cases hs.symm.trans hsafe

/-- Settles O2: the first clause field by field from what a reset writes, the second by the cases of a step. -/
theorem resetActionGivesResetState : Obligations.ResetActionGivesResetState :=
  ⟨fun s _ _ hpending =>
      ⟨_, step_of_reset hpending, Status.byte_reset, rfl, s.takeReset_marked, rfl, rfl, rfl, rfl, rfl, rfl⟩,
    fun _ _ => reset_of_leaves_fault⟩

/-- Settles O4: with FAULT = 0 and a word that decodes, the step reaches `exec`. -/
theorem stepRunsDecodedInstruction : Obligations.StepRunsDecodedInstruction :=
  fun _ _ _ _ hpending hfault hdecode => ⟨decode_wf hdecode, step_of_legal hpending hfault hdecode⟩

/-- Settles O6: the refused command is answered without a look at its word; with FAULT = 1 the response leaves `k`. -/
theorem faultRefusesEveryCommand : Obligations.FaultRefusesEveryCommand := by
  intro s c rest hpending hfault
  have hcore : SameCore s (s.accept c rest).respond := ⟨fun _ => ⟨rfl, rfl⟩, rfl, rfl, rfl, rfl⟩
  exact ⟨_, step_of_refused hpending hfault, hcore, rfl, rfl, if_pos hfault⟩

/-- Settles O8: every command has an effect, so every transaction is answered. -/
theorem everyStepHasANextState : Obligations.EveryStepHasANextState := by
  refine ⟨step_next, fun i s => ?_, fun _ => step_of_idle⟩
  obtain ⟨t, hexec, -⟩ := exec_effect i s
  exact ⟨t, hexec⟩

end Sys2Proof.Machine
end

section
/-! The command word (30_encoding.md R70 to R77): a word matches a row exactly by its opcode and must-be-zero fields, no
two rows share an opcode, so decoding and encoding undo each other; and SETU and SETS see only DIN[63:0] (R73). -/

namespace Sys2Proof

/-! ### A word and its row (30_encoding.md R71, R75, R76) -/

/-- `matches_assemble` for a word as it comes, by the fields that the decoder reads from it. -/
theorem matches_iff_fields (row : OpRow) (w : CmdWord) :
    row.matches w = true ↔ opField w = row.op ∧ row.fmt.mbzZero (w.extractLsb' 20 4) (w.extractLsb' 16 4)
      (w.extractLsb' 12 4) (w.extractLsb' 0 12) := by
  conv_lhs => rw [← assemble_fields w]
  exact matches_assemble row _ _ _ _ _

theorem opTable_ops_nodup : (opTable.map OpRow.op).Nodup := by
  decide

theorem rowOf_op {row : OpRow} (h : row ∈ opTable) : rowOf row.op = some row := by
  cases hfind : rowOf row.op with
  | none => simpa using List.find?_eq_none.1 hfind row h
  | some row' =>
    have hop : row'.op = row.op := by simpa using List.find?_some hfind
    rw [List.inj_on_of_nodup_map opTable_ops_nodup (List.mem_of_find?_eq_some hfind) h hop]

/-- A word that matches a row of the table decodes by that row. -/
theorem decode_of_matches {row : OpRow} {w : CmdWord} (hrow : row ∈ opTable) (hmatch : row.matches w = true) :
    decode w = .ok (row.build (rdField w) (raField w) (rbField w) (countField w)) := by
  have hop : rowOf (opField w) = some row := by
    rw [((matches_iff_fields row w).1 hmatch).1, rowOf_op hrow]
  simp [decode, hop, hmatch]

theorem legal_iff_decode {w : CmdWord} : legal w = true ↔ ∃ i, decode w = .ok i := by
  unfold legal
  cases decode w with
  | ok i => simp
  | error e => simp

theorem legal_iff_matches (w : CmdWord) : legal w = true ↔ ∃ row ∈ opTable, row.matches w = true := by
  rw [legal_iff_decode]
  constructor
  · rintro ⟨i, hdecode⟩
    obtain ⟨row, hrow, hmatch, -⟩ := row_of_decode hdecode
    exact ⟨row, hrow, hmatch⟩
  · rintro ⟨row, hrow, hmatch⟩
    exact ⟨_, decode_of_matches hrow hmatch⟩

/-- The rows that a word matches have its opcode, and no opcode stands twice in the table. -/
theorem matching_rows_le_one (w : CmdWord) : (opTable.filter (fun row => row.matches w)).length ≤ 1 := by
  have hop : ∀ row ∈ opTable, row.matches w = true → (row.op == opField w) = true := fun row _ hmatch =>
    beq_iff_eq.2 ((matches_iff_fields row w).1 hmatch).1.symm
  calc (opTable.filter (fun row => row.matches w)).length
      = opTable.countP (fun row => row.matches w) := List.countP_eq_length_filter.symm
    _ ≤ opTable.countP (fun row => row.op == opField w) := List.countP_mono_left hop
    _ = (opTable.map OpRow.op).count (opField w) := by rw [List.count, List.countP_map]; rfl
    _ ≤ 1 := List.nodup_iff_count_le_one.1 opTable_ops_nodup _

/-- Settles O14: the decoder takes the row with the word's opcode, the only one the word can match. -/
theorem legalWordsMatchExactlyOneRow : Obligations.LegalWordsMatchExactlyOneRow := by
  refine ⟨fun w => ?_, matching_rows_le_one, rfl, rfl⟩
  simpa only [OpRow.matches, beq_iff_eq] using legal_iff_matches w

/-! ### Decoding undoes encoding, and encoding undoes decoding -/

/-- The word with opcode `op` and the fields that the format uses, zero in the others (30_encoding.md R70). -/
def Format.word (f : Format) (op : BitVec 8) (rd ra rb : BitVec 4) (n : BitVec 12) : CmdWord :=
  match f with
  | .r3 => assemble op rd ra rb 0
  | .r2 => assemble op rd ra 0 0
  | .ri => assemble op rd ra 0 n
  | .c2 => assemble op 0 ra rb 0
  | .c1 => assemble op 0 ra 0 0
  | .d1 => assemble op rd 0 0 0

/-- Where the must-be-zero fields are zero, the word of the format drops nothing. -/
theorem Format.word_of_mbzZero {f : Format} (op : BitVec 8) {rd ra rb : BitVec 4} {n : BitVec 12}
    (hz : f.mbzZero rd ra rb n) : f.word op rd ra rb n = assemble op rd ra rb n := by
  cases f with
  | r3 | ri => cases hz; rfl
  | r2 | c2 => obtain ⟨rfl, rfl⟩ := hz; rfl
  | c1 | d1 => obtain ⟨rfl, rfl, rfl⟩ := hz; rfl

/-- A row and the encoder agree: the instruction that the row builds has the word of the row's opcode and format. -/
theorem encode_build {row : OpRow} (h : row ∈ opTable) (rd ra rb : Reg) (n : Nat) :
    encode (row.build rd ra rb n) =
      row.fmt.word row.op (bitsOfReg rd) (bitsOfReg ra) (bitsOfReg rb) (BitVec.ofNat 12 n) := by
  have hall : ∀ row ∈ opTable, encode (row.build rd ra rb n) =
      row.fmt.word row.op (bitsOfReg rd) (bitsOfReg ra) (bitsOfReg rb) (BitVec.ofNat 12 n) := by
    simp [opTable, moveRows, arithRows, compareRows, bitwiseRows, signRows, checkedRows, divisionRows, encode,
      Instr.opcode, Format.word]
  exact hall row h

/-- Settles O13: the decoded word is its own fields, and those are the fields of the word of the row's instruction. -/
theorem encodeOfDecodeIsTheWord : Obligations.EncodeOfDecodeIsTheWord := by
  intro w i hdecode
  refine ⟨?_, Machine.decode_wf hdecode⟩
  obtain ⟨row, hrow, hmatch, rfl⟩ := row_of_decode hdecode
  obtain ⟨hop, hzero⟩ := (matches_iff_fields row w).1 hmatch
  calc encode (row.build (rdField w) (raField w) (rbField w) (countField w))
      = row.fmt.word row.op (w.extractLsb' 20 4) (w.extractLsb' 16 4) (w.extractLsb' 12 4) (w.extractLsb' 0 12) := by
        simp only [encode_build hrow, rdField, raField, rbField, countField, bitsOfReg_regOfBits, BitVec.ofNat_toNat,
          BitVec.setWidth_eq]
    _ = assemble (opField w) _ _ _ _ := by rw [Format.word_of_mbzZero row.op hzero, hop]
    _ = w := assemble_fields w

theorem decode_encode_of_fields {i : Instr} {row : OpRow} {rd ra rb : BitVec 4} {n : BitVec 12}
    (hrow : rowOf i.opcode = some row) (hword : encode i = assemble i.opcode rd ra rb n)
    (hzero : row.fmt.mbzZero rd ra rb n)
    (hbuild : row.build (regOfBits rd) (regOfBits ra) (regOfBits rb) n.toNat = i) : decode (encode i) = .ok i := by
  rw [hword, decode_assemble hrow rd ra rb n hzero, hbuild]

/-- Settles O12: format by format, the row of the opcode builds the instruction back from the fields of its word. -/
theorem decodeOfEncodeIsTheInstruction : Obligations.DecodeOfEncodeIsTheInstruction := by
  intro i hwf
  cases i
  case ldw | setu | sets => exact decode_encode_of_fields rfl rfl ⟨rfl, rfl, rfl⟩ (by simp)
  case stw | isz | signum | isneg => exact decode_encode_of_fields rfl rfl ⟨rfl, rfl, rfl⟩ (by simp)
  case mov | not | neg | abs => exact decode_encode_of_fields rfl rfl ⟨rfl, rfl⟩ (by simp)
  case shl d a n | shr d a n =>
    have hcount : n < 4096 := of_decide_eq_true hwf
    exact decode_encode_of_fields rfl rfl rfl (by simp [hcount])
  case eq | gt | gte | sgt | sgte => exact decode_encode_of_fields rfl rfl ⟨rfl, rfl⟩ (by simp)
  case add | sub | mul | udiv | urem | and | or | xor | sadd | ssub | smul | div | mod | quo | rem | dive | mode =>
    exact decode_encode_of_fields rfl rfl rfl (by simp)

/-! ### SETU and SETS see only DIN[63:0] (30_encoding.md R73, 93_implementation_defined.md U16) -/

theorem Machine.State.setReg_reg_congr {s s' : Machine.State} (h : ∀ r, s'.reg r = s.reg r) (rd : Reg) (v : Pattern)
    (r : Reg) : (s'.setReg rd v).reg r = (s.setReg rd v).reg r := by
  by_cases hr : r = rd
  · rw [hr, s'.setReg_reg_self, s.setReg_reg_self]
  · rw [s'.setReg_reg_of_ne v hr, s.setReg_reg_of_ne v hr, h r]

/-- Settles O22: both commands write a function of `din64` to `W[rd]`, the same in the two states. -/
theorem highDinBitsAreIgnored : Obligations.HighDinBitsAreIgnored := by
  intro rd s s' hreg hlow
  have hdin : s'.din64 = s.din64 := hlow
  refine ⟨_, _, _, _, rfl, rfl, rfl, rfl, ?_, ?_⟩
  · rw [hdin]
    exact Machine.State.setReg_reg_congr hreg rd _
  · rw [hdin]
    exact Machine.State.setReg_reg_congr hreg rd _

end Sys2Proof
end

section
/-! Construction and movement (40_construct_move.md R100 to R105): the two extensions of DIN[63:0], as limbs and as
numbers, and what LDW, STW, MOV, SETU and SETS write. -/

namespace Sys2Proof.Machine

/-! ### The extensions of a limb (00_scope.md R13) -/

theorem toNat_zext64 (v : Limb) : (zext64 v).toNat = v.toNat :=
  BitVec.toNat_setWidth_of_le (by decide)

theorem zext64_eq_ofLimbs (v : Limb) : zext64 v = ofLimbs 0 0 0 v := by
  apply BitVec.eq_of_toNat_eq
  simp [toNat_zext64, toNat_ofLimbs]

/-- A zero-extended limb is below 2^64, so it is non-negative in the signed view. -/
theorem signed_zext64 (v : Limb) : signed (zext64 v) = ((zext64 v).toNat : Int) := by
  have hv := v.isLt
  have hmsb : (zext64 v).msb = false := by
    rw [BitVec.msb_eq_false_iff_two_mul_lt, toNat_zext64]
    omega
  rw [signed_eq_toInt, BitVec.toInt_eq_toNat_of_msb hmsb]

theorem sext64_of_nonneg {v : Limb} (h : v.msb = false) : sext64 v = ofLimbs 0 0 0 v := by
  rw [sext64, BitVec.signExtend_eq_setWidth_of_msb_false h]
  exact zext64_eq_ofLimbs v

/-- Above a negative limb every limb is all ones: together they are the `2^256 - 2^64` of 00_scope.md R13. -/
theorem sext64_of_neg {v : Limb} (h : v.msb = true) :
    sext64 v = ofLimbs 0xffffffffffffffff#64 0xffffffffffffffff#64 0xffffffffffffffff#64 v := by
  have hv := v.isLt
  apply BitVec.eq_of_toNat_eq
  rw [sext64, BitVec.toNat_signExtend, if_pos h, toNat_ofLimbs, BitVec.toNat_setWidth_of_le (by decide)]
  simp only [BitVec.toNat_ofNat]
  omega

theorem signed_sext64 (v : Limb) : signed (sext64 v) = v.toInt := by
  rw [signed_eq_toInt]
  exact BitVec.toInt_signExtend_of_le (by decide)

theorem State.toNat_din64 (s : State) : s.din64.toNat = s.din.toNat % 2 ^ 64 := by
  rw [State.din64, toNat_slice, Nat.pow_zero, Nat.div_one]

theorem State.msb_din64 (s : State) : s.din64.msb = s.din.getLsbD 63 := by
  simp [State.din64, BitVec.msb_eq_getLsbD_last]

/-! ### The commands -/

/-- Settles O28: what SETU writes is the zero extension of `din64`, as limbs and as a number. -/
theorem setuZeroExtends : Obligations.SetuZeroExtends := by
  refine ⟨encodedD1_of_row (by decide) rfl, fun rd s => ?_⟩
  refine ⟨_, zext64 s.din64, rfl, s.setReg_writesOnlyReg rd _, zext64_eq_ofLimbs s.din64, ?_, signed_zext64 s.din64⟩
  rw [toNat_zext64, s.toNat_din64]

/-- Settles O29: what SETS writes is the sign extension of `din64`, by the sign of that limb. -/
theorem setsSignExtends : Obligations.SetsSignExtends := by
  refine ⟨encodedD1_of_row (by decide) rfl, fun rd s => ?_⟩
  refine ⟨_, sext64 s.din64, rfl, s.setReg_writesOnlyReg rd _, ?_, signed_sext64 s.din64⟩
  rw [← s.msb_din64]
  split
  next hneg => exact sext64_of_neg hneg
  next hnonneg => exact sext64_of_nonneg (Bool.eq_false_iff.2 hnonneg)

/-- Settles O25: LDW is one register write, of DIN as it was sampled. -/
theorem ldwLoadsDin : Obligations.LdwLoadsDin :=
  ⟨encodedD1_of_row (by decide) rfl, fun rd s => ⟨_, rfl, s.setReg_writesOnlyReg rd s.din⟩⟩

/-- Settles O26: STW is one write of DOUT, which marks it, so the port shows it at every look. -/
theorem stwStoresToDout : Obligations.StwStoresToDout :=
  ⟨encodedC1_of_row (by decide) rfl, fun ra s =>
    ⟨_, rfl, s.setDout_writesOnlyDout (s.srcA ra), fun look => State.doutPort_of_written _ look rfl⟩⟩

/-- Settles O27: MOV is one register write; of two different registers a write of one leaves the other. -/
theorem movCopies : Obligations.MovCopies := by
  refine ⟨encodedR2_of_row (by decide) rfl, fun rd ra s => ?_⟩
  refine ⟨_, rfl, s.setReg_writesOnlyReg rd (s.srcA ra), fun hne => ⟨s.setReg_reg_of_ne _ hne, fun v => ⟨?_, ?_⟩⟩⟩
  · exact State.setReg_reg_of_ne _ v hne.symm
  · exact State.setReg_reg_of_ne _ v hne

end Sys2Proof.Machine
end

section
/-! Unsigned arithmetic (41_unsigned_arith.md R120 to R127): the carry chain, the borrow chain, the schoolbook
multiplier and the restoring divider give the numbers that ADD, SUB, MUL, UDIV and UREM write. -/

namespace Sys2Proof.Machine

/-! ### Limb primitives (00_scope.md R14) -/

/-- Sum and carry out of `adc64` together are the exact sum. -/
theorem adc64_sum (a b : Limb) (c : Bool) :
    (adc64 a b c).1.toNat + 2 ^ 64 * (adc64 a b c).2.toNat = a.toNat + b.toNat + c.toNat := by
  have ha := a.isLt
  have hb := b.isLt
  have hc := Bool.toNat_le c
  simp only [adc64, BitVec.toNat_ofNat, Bool.toNat, Bool.cond_decide] at *
  split <;> omega

/-- Difference and borrow out of `sbb64` together are the exact difference. -/
theorem sbb64_difference (a b : Limb) (c : Bool) :
    (sbb64 a b c).1.toNat + b.toNat + c.toNat = a.toNat + 2 ^ 64 * (sbb64 a b c).2.toNat := by
  have ha := a.isLt
  have hb := b.isLt
  have hc := Bool.toNat_le c
  simp only [sbb64, BitVec.toNat_ofInt, Bool.toNat, Bool.cond_decide] at *
  split <;> omega

theorem toNat_mul_limbs_le (a b : Limb) : a.toNat * b.toNat ≤ (2 ^ 64 - 1) * (2 ^ 64 - 1) :=
  Nat.mul_le_mul (Nat.le_sub_one_of_lt a.isLt) (Nat.le_sub_one_of_lt b.isLt)

/-- The two halves of `mul64` together are the exact product. -/
theorem mul64_product (a b : Limb) : (mul64 a b).2.toNat + 2 ^ 64 * (mul64 a b).1.toNat = a.toNat * b.toNat := by
  have hab := toNat_mul_limbs_le a b
  simp only [mul64, BitVec.toNat_ofNat]
  omega

/-! ### The chains (41_unsigned_arith.md R121, R122) -/

/-- The carry chain keeps the whole sum: the carry out is its bit 256. -/
theorem addLimbs_sum (x y : Pattern) :
    (addLimbs x y).1.toNat + 2 ^ 256 * (addLimbs x y).2.toNat = x.toNat + y.toNat := by
  let r0 := adc64 (limb x 0) (limb y 0) false
  let r1 := adc64 (limb x 1) (limb y 1) r0.2
  let r2 := adc64 (limb x 2) (limb y 2) r1.2
  let r3 := adc64 (limb x 3) (limb y 3) r2.2
  have h0 : r0.1.toNat + 2 ^ 64 * r0.2.toNat = _ := adc64_sum _ _ _
  have h1 : r1.1.toNat + 2 ^ 64 * r1.2.toNat = _ := adc64_sum _ _ _
  have h2 : r2.1.toNat + 2 ^ 64 * r2.2.toNat = _ := adc64_sum _ _ _
  have h3 : r3.1.toNat + 2 ^ 64 * r3.2.toNat = _ := adc64_sum _ _ _
  have hchain : addLimbs x y = (ofLimbs r3.1 r2.1 r1.1 r0.1, r3.2) := rfl
  rw [toNat_eq_sum_limbs x, toNat_eq_sum_limbs y]
  simp only [hchain, toNat_ofLimbs]
  rw [Bool.toNat_false] at h0
  omega

/-- The borrow chain keeps the whole difference: the borrow out stands for 2^256. -/
theorem subLimbs_difference (x y : Pattern) :
    (subLimbs x y).1.toNat + y.toNat = x.toNat + 2 ^ 256 * (subLimbs x y).2.toNat := by
  let r0 := sbb64 (limb x 0) (limb y 0) false
  let r1 := sbb64 (limb x 1) (limb y 1) r0.2
  let r2 := sbb64 (limb x 2) (limb y 2) r1.2
  let r3 := sbb64 (limb x 3) (limb y 3) r2.2
  have h0 : r0.1.toNat + (limb y 0).toNat + _ = _ + 2 ^ 64 * r0.2.toNat := sbb64_difference _ _ _
  have h1 : r1.1.toNat + (limb y 1).toNat + _ = _ + 2 ^ 64 * r1.2.toNat := sbb64_difference _ _ _
  have h2 : r2.1.toNat + (limb y 2).toNat + _ = _ + 2 ^ 64 * r2.2.toNat := sbb64_difference _ _ _
  have h3 : r3.1.toNat + (limb y 3).toNat + _ = _ + 2 ^ 64 * r3.2.toNat := sbb64_difference _ _ _
  have hchain : subLimbs x y = (ofLimbs r3.1 r2.1 r1.1 r0.1, r3.2) := rfl
  rw [toNat_eq_sum_limbs x, toNat_eq_sum_limbs y]
  simp only [hchain, toNat_ofLimbs]
  rw [Bool.toNat_false] at h0
  omega

theorem add_eq_addLimbs (x y : Pattern) : x + y = (addLimbs x y).1 := by
  apply BitVec.eq_of_toNat_eq
  rw [BitVec.toNat_add, ← addLimbs_sum, Nat.add_mul_mod_self_left]
  exact Nat.mod_eq_of_lt (addLimbs x y).1.isLt

theorem toNat_sub_eq_emod (x y : Pattern) : ((x - y).toNat : Int) = ((x.toNat - y.toNat : Int)) % 2 ^ 256 := by
  have hx := x.isLt
  have hy := y.isLt
  rw [BitVec.toNat_sub]
  omega

theorem sub_eq_subLimbs (x y : Pattern) : x - y = (subLimbs x y).1 := by
  have hchain := subLimbs_difference x y
  have hlt := (subLimbs x y).1.isLt
  have hx := x.isLt
  have hy := y.isLt
  apply BitVec.eq_of_toNat_eq
  rw [BitVec.toNat_sub]
  omega

/-- Settles O30: the register write is of `x + y`, the carry chain's sum without its carry out. -/
theorem addWrapsAndEqualsCarryChain : Obligations.AddWrapsAndEqualsCarryChain := by
  refine ⟨encodedR3_of_row (by decide) rfl, fun rd ra rb s => ?_⟩
  exact ⟨_, _, rfl, s.setReg_writesOnlyReg rd _, BitVec.toNat_add _ _, add_eq_addLimbs _ _⟩

/-- Settles O31: the register write is of `x - y`, the borrow chain's difference without its borrow out. -/
theorem subWrapsAndEqualsBorrowChain : Obligations.SubWrapsAndEqualsBorrowChain := by
  refine ⟨encodedR3_of_row (by decide) rfl, fun rd ra rb s => ?_⟩
  exact ⟨_, _, rfl, s.setReg_writesOnlyReg rd _, toNat_sub_eq_emod _ _, sub_eq_subLimbs _ _⟩

/-! ### Schoolbook multiplier (41_unsigned_arith.md R123) -/

/-- The number with the limbs `zs`, least significant first (00_scope.md R11). -/
def limbsValue (zs : List Limb) : Nat := Nat.ofDigits (2 ^ 64) (zs.map BitVec.toNat)

@[simp] theorem limbsValue_nil : limbsValue [] = 0 := rfl

@[simp] theorem limbsValue_cons (z : Limb) (zs : List Limb) :
    limbsValue (z :: zs) = z.toNat + 2 ^ 64 * limbsValue zs :=
  Nat.ofDigits_cons

theorem limbsValue_four (z0 z1 z2 z3 : Limb) : limbsValue [z0, z1, z2, z3] = (ofLimbs z3 z2 z1 z0).toNat := by
  simp only [limbsValue_cons, limbsValue_nil, toNat_ofLimbs]
  omega

theorem limbsValue_zeros : limbsValue [0, 0, 0, 0] = 0 := rfl

theorem limbsValue_limbsOf (p : Pattern) : limbsValue (limbsOf p) = p.toNat := by
  rw [limbsOf, limbsValue_four, ofLimbs_limb]

/-- One pass of the inner loop: the new column `z` and the carry into the next column. -/
def mulCell (a b z carry : Limb) : Limb × Limb :=
  let p := mul64 a b
  let s1 := adc64 z p.2 false
  let s2 := adc64 s1.1 carry false
  (s2.1, p.1 + BitVec.ofNat 64 s1.2.toNat + BitVec.ofNat 64 s2.2.toNat)

theorem mulRow_cons (a b z carry : Limb) (ys zs : List Limb) :
    mulRow a (b :: ys) (z :: zs) carry = (mulCell a b z carry).1 :: mulRow a ys zs (mulCell a b z carry).2 := rfl

/-- Column and carry are exact: a product and two limbs more fit 128 bits, so the carry fits a limb. -/
theorem mulCell_sum (a b z carry : Limb) :
    (mulCell a b z carry).1.toNat + 2 ^ 64 * (mulCell a b z carry).2.toNat =
      z.toNat + a.toNat * b.toNat + carry.toNat := by
  have hab := toNat_mul_limbs_le a b
  have hp := mul64_product a b
  have hs1 := adc64_sum z (mul64 a b).2 false
  have hs2 := adc64_sum (adc64 z (mul64 a b).2 false).1 carry false
  have hz := z.isLt
  have hcarry := carry.isLt
  simp only [mulCell, BitVec.toNat_add, BitVec.toNat_ofNat, Bool.toNat_false] at *
  omega

@[simp] theorem length_mulRow (a : Limb) (ys zs : List Limb) (carry : Limb) :
    (mulRow a ys zs carry).length = zs.length := by
  induction zs generalizing ys carry with
  | nil => cases ys <;> rfl
  | cons z zs ih =>
    cases ys with
    | nil => rfl
    | cons b ys => simp [mulRow_cons, ih]

/-- The inner loop adds `a` times `ys` and the carry to the columns; what it drops lies beyond the last column. -/
theorem mulRow_modEq (a : Limb) {ys zs : List Limb} (h : zs.length ≤ ys.length) (carry : Limb) :
    limbsValue (mulRow a ys zs carry) ≡ limbsValue zs + a.toNat * limbsValue ys + carry.toNat
      [MOD (2 ^ 64) ^ zs.length] := by
  induction zs generalizing ys carry with
  | nil => exact Nat.modEq_one
  | cons z zs ih =>
    cases ys with
    | nil => simp at h
    | cons b ys =>
      have hrest := ih (Nat.le_of_succ_le_succ h) (mulCell a b z carry).2
      have hcell := mulCell_sum a b z carry
      rw [mulRow_cons, limbsValue_cons, List.length_cons, Nat.pow_succ']
      calc (mulCell a b z carry).1.toNat + 2 ^ 64 * limbsValue (mulRow a ys zs (mulCell a b z carry).2)
          ≡ (mulCell a b z carry).1.toNat +
              2 ^ 64 * (limbsValue zs + a.toNat * limbsValue ys + (mulCell a b z carry).2.toNat)
              [MOD 2 ^ 64 * (2 ^ 64) ^ zs.length] := (hrest.mul_left' (2 ^ 64)).add_left _
        _ = ((mulCell a b z carry).1.toNat + 2 ^ 64 * (mulCell a b z carry).2.toNat) +
              2 ^ 64 * (limbsValue zs + a.toNat * limbsValue ys) := by ring
        _ = z.toNat + a.toNat * b.toNat + carry.toNat + 2 ^ 64 * (limbsValue zs + a.toNat * limbsValue ys) := by
          rw [hcell]
        _ = limbsValue (z :: zs) + a.toNat * limbsValue (b :: ys) + carry.toNat := by
          simp only [limbsValue_cons]; ring

theorem mulRows_cons {a z : Limb} {ys zs rest : List Limb} (xs : List Limb) (h : mulRow a ys zs 0 = z :: rest) :
    mulRows (a :: xs) ys zs = z :: mulRows xs ys rest := by
  simp only [mulRows, h]

@[simp] theorem length_mulRows (xs ys zs : List Limb) : (mulRows xs ys zs).length = zs.length := by
  induction xs generalizing zs with
  | nil => rfl
  | cons a xs ih =>
    have hlength := length_mulRow a ys zs 0
    cases hrow : mulRow a ys zs 0 with
    | nil => rw [← hlength, mulRows, hrow]
    | cons z rest => rw [mulRows_cons xs hrow, List.length_cons, ih, ← hlength, hrow, List.length_cons]

/-- The outer loop adds the product to the columns, modulo the weight of the first column that is not kept: the partial
products that it does not form have that weight or a higher one. -/
theorem mulRows_modEq (xs : List Limb) {ys zs : List Limb} (h : zs.length ≤ ys.length) :
    limbsValue (mulRows xs ys zs) ≡ limbsValue zs + limbsValue xs * limbsValue ys [MOD (2 ^ 64) ^ zs.length] := by
  induction xs generalizing zs with
  | nil => simpa [mulRows] using Nat.ModEq.refl _
  | cons a xs ih =>
    have hrowMod := mulRow_modEq a h 0
    have hlength := length_mulRow a ys zs 0
    cases hrow : mulRow a ys zs 0 with
    | nil =>
      rw [← hlength, hrow]
      exact Nat.modEq_one
    | cons z rest =>
      rw [hrow] at hrowMod hlength
      rw [List.length_cons] at hlength
      have hrest := (ih (zs := rest) (by omega)).mul_left' (2 ^ 64)
      rw [← Nat.pow_succ', Nat.succ_eq_add_one, hlength] at hrest
      rw [mulRows_cons xs hrow, limbsValue_cons]
      calc z.toNat + 2 ^ 64 * limbsValue (mulRows xs ys rest)
          ≡ z.toNat + 2 ^ 64 * (limbsValue rest + limbsValue xs * limbsValue ys) [MOD (2 ^ 64) ^ zs.length] :=
            hrest.add_left _
        _ = limbsValue (z :: rest) + 2 ^ 64 * limbsValue xs * limbsValue ys := by rw [limbsValue_cons]; ring
        _ ≡ limbsValue zs + a.toNat * limbsValue ys + (0 : Limb).toNat + 2 ^ 64 * limbsValue xs * limbsValue ys
              [MOD (2 ^ 64) ^ zs.length] := hrowMod.add_right _
        _ = limbsValue zs + limbsValue (a :: xs) * limbsValue ys := by
          simp only [limbsValue_cons, BitVec.ofNat_eq_ofNat, BitVec.toNat_zero]; ring

theorem toNat_mulLimbs (x y : Pattern) :
    (mulLimbs x y).toNat = limbsValue (mulRows (limbsOf x) (limbsOf y) [0, 0, 0, 0]) := by
  obtain ⟨z0, z1, z2, z3, hcolumns⟩ := List.length_eq_four.1 (length_mulRows (limbsOf x) (limbsOf y) [0, 0, 0, 0])
  simp only [mulLimbs, hcolumns, limbsValue_four]

theorem mul_eq_mulLimbs (x y : Pattern) : x * y = mulLimbs x y := by
  have hproduct := mulRows_modEq (limbsOf x) (ys := limbsOf y) (zs := [0, 0, 0, 0]) (Nat.le_refl 4)
  rw [← toNat_mulLimbs, limbsValue_limbsOf, limbsValue_limbsOf, limbsValue_zeros, Nat.zero_add, ← Nat.pow_mul]
    at hproduct
  apply BitVec.eq_of_toNat_eq
  calc (x * y).toNat = x.toNat * y.toNat % 2 ^ 256 := BitVec.toNat_mul x y
    _ = (mulLimbs x y).toNat % 2 ^ 256 := hproduct.symm
    _ = (mulLimbs x y).toNat := Nat.mod_eq_of_lt (mulLimbs x y).isLt

/-- Settles O32: the register write is of `x * y`, to which the rows of partial products add up modulo 2^256. -/
theorem mulWrapsAndEqualsSchoolbook : Obligations.MulWrapsAndEqualsSchoolbook := by
  refine ⟨encodedR3_of_row (by decide) rfl, fun rd ra rb s => ?_⟩
  exact ⟨_, _, rfl, s.setReg_writesOnlyReg rd _, BitVec.toNat_mul _ _, mul_eq_mulLimbs _ _⟩

/-! ### The divider (41_unsigned_arith.md R124) -/

@[simp] theorem toNat_udivQuo (a b : Pattern) : (udivQuo a b).toNat = a.toNat / b.toNat := by
  rw [udivQuo, BitVec.toNat_ofNat]
  exact Nat.mod_eq_of_lt ((Nat.div_le_self _ _).trans_lt a.isLt)

@[simp] theorem toNat_udivRem (a b : Pattern) : (udivRem a b).toNat = a.toNat % b.toNat := by
  rw [udivRem, BitVec.toNat_ofNat]
  exact Nat.mod_eq_of_lt ((Nat.mod_le _ _).trans_lt a.isLt)

theorem udivQuo_mul_add_udivRem (a b : Pattern) : (udivQuo a b).toNat * b.toNat + (udivRem a b).toNat = a.toNat := by
  rw [toNat_udivQuo, toNat_udivRem]
  exact Nat.div_add_mod' a.toNat b.toNat

theorem udivRem_lt (a : Pattern) {b : Pattern} (h : b ≠ 0) : (udivRem a b).toNat < b.toNat := by
  rw [toNat_udivRem]
  exact Nat.mod_lt _ (BitVec.toNat_pos_of_ne_zero h)

theorem udivrem_unique {a b : Pattern} {q r : Nat} (h : a.toNat = q * b.toNat + r) (hr : r < b.toNat) :
    q = (udivQuo a b).toNat ∧ r = (udivRem a b).toNat := by
  have hpair := (Nat.div_mod_unique (Nat.zero_lt_of_lt hr)).2 ⟨show r + b.toNat * q = a.toNat by rw [h]; ring, hr⟩
  rw [toNat_udivQuo, toNat_udivRem]
  exact ⟨hpair.1.symm, hpair.2.symm⟩

/-- The divider's `(q, r)` when the bits of `a` from `n` up have been taken in: quotient and remainder of those bits,
the quotient's bits in their places. -/
def divTopBits (a b : Pattern) (n : Nat) : Nat × Nat :=
  (a.toNat / 2 ^ n / b.toNat * 2 ^ n, a.toNat / 2 ^ n % b.toNat)

theorem toNat_div_two_pow_succ (a : Pattern) (n : Nat) :
    a.toNat / 2 ^ n = 2 * (a.toNat / 2 ^ (n + 1)) + (a.getLsbD n).toNat := by
  rw [BitVec.getLsbD, Nat.toNat_testBit, Nat.pow_succ, ← Nat.div_div_eq_div_mul]
  exact (Nat.div_add_mod _ 2).symm

/-- Division with one more bit: the remainder doubles and takes the bit in, and the divisor then fits at most once. -/
theorem div_mod_two_mul_add_bit (m : Nat) {b bit : Nat} (hb : 0 < b) (hbit : bit ≤ 1) :
    ((2 * m + bit) / b, (2 * m + bit) % b) =
      if b ≤ 2 * (m % b) + bit then (2 * (m / b) + 1, 2 * (m % b) + bit - b)
      else (2 * (m / b), 2 * (m % b) + bit) := by
  have hr := Nat.mod_lt m hb
  have hdouble : 2 * m + bit = b * (2 * (m / b)) + (2 * (m % b) + bit) := by
    calc 2 * m + bit = 2 * (b * (m / b) + m % b) + bit := by rw [Nat.div_add_mod]
      _ = b * (2 * (m / b)) + (2 * (m % b) + bit) := by ring
  rw [Prod.ext_iff]
  split
  next hfits => exact (Nat.div_mod_unique hb).2 ⟨by rw [hdouble, Nat.mul_add]; omega, by omega⟩
  next hsmall => exact (Nat.div_mod_unique hb).2 ⟨by rw [hdouble, Nat.add_comm], by omega⟩

theorem divStep_mk (a b : Pattern) (i q r : Nat) :
    divStep a b i (q, r) =
      if b.toNat ≤ 2 * r + (a.getLsbD i).toNat then (q + 2 ^ i, 2 * r + (a.getLsbD i).toNat - b.toNat)
      else (q, 2 * r + (a.getLsbD i).toNat) := rfl

theorem divStep_divTopBits (a : Pattern) {b : Pattern} (hb : b ≠ 0) (n : Nat) :
    divStep a b n (divTopBits a b (n + 1)) = divTopBits a b n := by
  have hnext := div_mod_two_mul_add_bit (a.toNat / 2 ^ (n + 1)) (BitVec.toNat_pos_of_ne_zero hb)
    (Bool.toNat_le (a.getLsbD n))
  rw [← toNat_div_two_pow_succ] at hnext
  rw [divTopBits, divTopBits, divStep_mk, Nat.pow_succ] at *
  split
  next hfits =>
    obtain ⟨hquo, hrem⟩ := Prod.mk.inj (hnext.trans (if_pos hfits))
    exact Prod.ext (by rw [hquo]; ring) hrem.symm
  next hsmall =>
    obtain ⟨hquo, hrem⟩ := Prod.mk.inj (hnext.trans (if_neg hsmall))
    exact Prod.ext (by rw [hquo]; ring) hrem.symm

theorem divSteps_divTopBits (a : Pattern) {b : Pattern} (hb : b ≠ 0) (n : Nat) :
    divSteps a b n (divTopBits a b n) = divTopBits a b 0 := by
  induction n with
  | zero => rfl
  | succ n ih => rw [divSteps, divStep_divTopBits a hb, ih]

theorem divTopBits_256 (a b : Pattern) : divTopBits a b 256 = (0, 0) := by
  simp [divTopBits, Nat.div_eq_of_lt a.isLt]

theorem divLimbs_eq (a : Pattern) {b : Pattern} (hb : b ≠ 0) : divLimbs a b = (udivQuo a b, udivRem a b) := by
  rw [divLimbs, ← divTopBits_256 a b, divSteps_divTopBits a hb]
  simp [divTopBits, udivQuo, udivRem]

/-- Settles O33: division with remainder on the numbers, and the restoring divider's invariant over its 256 steps. -/
theorem dividerIsUdivremAndRestoring : Obligations.DividerIsUdivremAndRestoring := fun a b hb =>
  ⟨(udivQuo_mul_add_udivRem a b).symm, udivRem_lt a hb, fun _ _ => udivrem_unique, divLimbs_eq a hb⟩

/-- Settles O34: the division commits the fault or the quotient. -/
theorem udivWritesQuotientOrFaults : Obligations.UdivWritesQuotientOrFaults := by
  refine ⟨encodedR3_of_row (by decide) rfl, fun rd ra rb s => ⟨fun hzero => ?_, fun hnonzero => ?_⟩⟩
  · exact ⟨_, rfl, s.commitDivision_zero rd _ hzero⟩
  · exact ⟨_, _, rfl, s.commitDivision_nonzero rd _ hnonzero, toNat_udivQuo _ _⟩

/-- Settles O35: the division commits the fault or the remainder, which meets the divider's identity. -/
theorem uremWritesRemainderOrFaults : Obligations.UremWritesRemainderOrFaults := by
  refine ⟨encodedR3_of_row (by decide) rfl, fun rd ra rb s => ⟨fun hzero => ?_, fun hnonzero => ?_⟩⟩
  · exact ⟨_, rfl, s.commitDivision_zero rd _ hzero⟩
  · exact ⟨_, _, rfl, s.commitDivision_nonzero rd _ hnonzero, toNat_udivRem _ _, udivRem_lt _ hnonzero,
      udivQuo_mul_add_udivRem _ _⟩

end Sys2Proof.Machine
end

section
/-! Unsigned comparison (42_compare.md R140 to R145): the predicates that EQ, GT, GTE and ISZ put into T, their limb-wise
tests, and how they depend on each other. -/

namespace Sys2Proof.Machine

/-! ### Equality and zero limb by limb (42_compare.md R141, R144) -/

theorem eq_iff_limbs (x y : Pattern) :
    x = y ↔ limb x 0 = limb y 0 ∧ limb x 1 = limb y 1 ∧ limb x 2 = limb y 2 ∧ limb x 3 = limb y 3 := by
  constructor
  · rintro rfl
    exact ⟨rfl, rfl, rfl, rfl⟩
  · rintro ⟨h0, h1, h2, h3⟩
    rw [← ofLimbs_limb x, h0, h1, h2, h3, ofLimbs_limb]

@[simp] theorem limb_zero (i : Nat) : limb 0#256 i = 0#64 := by
  simp [limb]

theorem predEq_iff (x y : Pattern) : predEq x y = true ↔ x = y := beq_iff_eq

theorem predIsz_iff (x : Pattern) : predIsz x = true ↔ x = 0 := beq_iff_eq

theorem predEq_eq_eqLimbs (x y : Pattern) : predEq x y = eqLimbs x y := by
  rw [Bool.eq_iff_iff, predEq_iff, eq_iff_limbs]
  simp [eqLimbs, and_assoc]

/-- An OR is zero when all that goes into it is zero. -/
theorem predIsz_eq_iszLimbs (x : Pattern) : predIsz x = iszLimbs x := by
  rw [Bool.eq_iff_iff, predIsz_iff, eq_iff_limbs]
  simp [iszLimbs, BitVec.or_eq_zero_iff, and_assoc]

/-! ### Order from the top limb (42_compare.md R142) -/

theorem predGt_iff (x y : Pattern) : predGt x y = true ↔ y.toNat < x.toNat := decide_eq_true_iff

theorem predGte_iff (x y : Pattern) : predGte x y = true ↔ y.toNat ≤ x.toNat := decide_eq_true_iff

/-- The low `i + 1` limbs as a number: limb `i` above the low `i` limbs. -/
theorem toNat_mod_two_pow_limbs_succ (p : Pattern) (i : Nat) :
    p.toNat % 2 ^ (64 * (i + 1)) = p.toNat % 2 ^ (64 * i) + 2 ^ (64 * i) * (limb p i).toNat := by
  rw [toNat_limb, Nat.mul_succ, Nat.pow_add, Nat.mod_mul]

/-- The loop entered at limb `i - 1` compares the low `i` limbs as numbers: a differing limb `i` outweighs all that is
below it, and equal limbs `i` leave the decision to the rest. -/
theorem gtFrom_eq (x y : Pattern) (i : Nat) :
    gtFrom x y i = decide (y.toNat % 2 ^ (64 * i) < x.toNat % 2 ^ (64 * i)) := by
  induction i with
  | zero => simp [gtFrom, Nat.mod_one]
  | succ i ih =>
    have hx : x.toNat % 2 ^ (64 * i) < 2 ^ (64 * i) := Nat.mod_lt _ (Nat.two_pow_pos _)
    have hy : y.toNat % 2 ^ (64 * i) < 2 ^ (64 * i) := Nat.mod_lt _ (Nat.two_pow_pos _)
    rw [gtFrom, toNat_mod_two_pow_limbs_succ x, toNat_mod_two_pow_limbs_succ y]
    split_ifs with hgt hlt
    · exact (decide_eq_true (Nat.lt_add_left _ (Nat.add_mul_lt_mul_of_lt_of_lt hy hgt))).symm
    · exact (decide_eq_false (Nat.lt_add_left _ (Nat.add_mul_lt_mul_of_lt_of_lt hx hlt)).asymm).symm
    · have hsame : (limb x i).toNat = (limb y i).toNat := Nat.le_antisymm (Nat.not_lt.1 hgt) (Nat.not_lt.1 hlt)
      rw [ih, hsame, decide_eq_decide]
      exact (Nat.add_lt_add_iff_right).symm

theorem predGt_eq_gtLimbs (x y : Pattern) : predGt x y = gtLimbs x y := by
  rw [gtLimbs, gtFrom_eq, Nat.mod_eq_of_lt x.isLt, Nat.mod_eq_of_lt y.isLt, predGt]

/-! ### The predicates among themselves (42_compare.md R143, R145) -/

theorem predGte_eq_not_predGt (x y : Pattern) : predGte x y = !predGt y x := by
  rw [predGte, predGt, ← decide_not, decide_eq_decide, Nat.not_lt]

theorem predGte_eq_predGt_or_predEq (x y : Pattern) : predGte x y = (predGt x y || predEq x y) := by
  rw [Bool.eq_iff_iff, Bool.or_eq_true, predGte_iff, predGt_iff, predEq_iff, Nat.le_iff_lt_or_eq, BitVec.toNat_inj,
    eq_comm (a := y)]

/-- Trichotomy of the unsigned numbers, as the three predicates see it. -/
theorem exactly_one_of_predGt_predGt_predEq (x y : Pattern) :
    predGt x y = true ∧ predGt y x = false ∧ predEq x y = false ∨
      predGt x y = false ∧ predGt y x = true ∧ predEq x y = false ∨
      predGt x y = false ∧ predGt y x = false ∧ predEq x y = true := by
  simp only [← Bool.not_eq_true, predGt_iff, predEq_iff, ← BitVec.toNat_inj]
  obtain hlt | heq | hgt := Nat.lt_trichotomy x.toNat y.toNat
  · exact .inr (.inl ⟨hlt.asymm, hlt, hlt.ne⟩)
  · exact .inr (.inr ⟨heq.not_gt, heq.not_lt, heq⟩)
  · exact .inl ⟨hgt, hgt.asymm, hgt.ne'⟩

/-- The chain of `y - x` borrows out exactly when `y` is below `x`. -/
theorem predGt_eq_borrow (x y : Pattern) : predGt x y = (subLimbs y x).2 := by
  have hchain := subLimbs_difference y x
  have hlt := (subLimbs y x).1.isLt
  have hx := x.isLt
  cases hborrow : (subLimbs y x).2 <;> rw [hborrow] at hchain
  case false =>
    rw [Bool.toNat_false] at hchain
    exact decide_eq_false (by omega)
  case true =>
    rw [Bool.toNat_true] at hchain
    exact decide_eq_true (by omega)

/-! ### The commands -/

/-- Settles O36: the write of T is of `predEq`, which is the conjunction of the limb tests. -/
theorem eqComparesAllLimbs : Obligations.EqComparesAllLimbs := by
  refine ⟨encodedC2_of_row (by decide) rfl, fun ra rb s => ?_⟩
  exact ⟨_, _, rfl, s.setT_writesOnlyT _, predEq_iff _ _, predEq_eq_eqLimbs _ _⟩

/-- Settles O37: the write of T is of `predGt`, which the loop from the top limb computes. -/
theorem gtComparesFromTheTopLimb : Obligations.GtComparesFromTheTopLimb := by
  refine ⟨encodedC2_of_row (by decide) rfl, fun ra rb s => ?_⟩
  exact ⟨_, _, rfl, s.setT_writesOnlyT _, predGt_iff _ _, predGt_eq_gtLimbs _ _⟩

/-- Settles O38: the write of T is of `predGte`; the limb tests stand for `predGt` and `predEq`. -/
theorem gteIsGtOrEq : Obligations.GteIsGtOrEq := by
  refine ⟨encodedC2_of_row (by decide) rfl, fun ra rb s => ?_⟩
  refine ⟨_, _, rfl, s.setT_writesOnlyT _, predGte_iff _ _, ?_, ?_⟩
  · rw [← predGt_eq_gtLimbs, ← predEq_eq_eqLimbs]
    exact predGte_eq_predGt_or_predEq _ _
  · rw [← predGt_eq_gtLimbs]
    exact predGte_eq_not_predGt _ _

/-- Settles O39: the write of T is of `predIsz`, which is the test on the OR of the limbs. -/
theorem iszTestsAllLimbs : Obligations.IszTestsAllLimbs := by
  refine ⟨encodedC1_of_row (by decide) rfl, fun ra s => ?_⟩
  exact ⟨_, _, rfl, s.setT_writesOnlyT _, predIsz_iff _, predIsz_eq_iszLimbs _⟩

/-- Settles O40, from trichotomy, GTE as the negation of GT swapped, and the exact difference of the borrow chain. -/
theorem comparisonLaws : Obligations.ComparisonLaws := fun x y =>
  ⟨exactly_one_of_predGt_predGt_predEq x y, predGte_eq_not_predGt x y, predGt_eq_borrow x y⟩

end Sys2Proof.Machine
end

section
/-! Bitwise operations and shifts (43_bitwise_shift.md R160 to R168): the shifts by an immediate count are the library's
shifts of a bit vector, and limb by limb the two-stage shifters. -/

namespace Sys2Proof.Machine

/-! ### The shifts as numbers (43_bitwise_shift.md R166, R167) -/

/-- The library's shift, too, gives zero once every bit is out. -/
@[simp] theorem shiftLeft_eq (x : Pattern) (n : Nat) : shiftLeft x n = x <<< n := by
  rw [shiftLeft]
  split
  next hn => exact (BitVec.shiftLeft_eq_zero hn).symm
  next => rfl

/-- The library's shift, too, gives zero once every bit is out. -/
@[simp] theorem shiftRight_eq (x : Pattern) (n : Nat) : shiftRight x n = x >>> n := by
  rw [shiftRight]
  split
  next hn => exact (BitVec.ushiftRight_eq_zero hn).symm
  next => rfl

theorem toNat_shiftLeft (x : Pattern) (n : Nat) : (shiftLeft x n).toNat = x.toNat * 2 ^ n % 2 ^ 256 := by
  rw [shiftLeft_eq, BitVec.toNat_shiftLeft, Nat.shiftLeft_eq]

theorem toNat_shiftRight (x : Pattern) (n : Nat) : (shiftRight x n).toNat = x.toNat / 2 ^ n := by
  rw [shiftRight_eq, BitVec.toNat_ushiftRight, Nat.shiftRight_eq_div_pow]

/-- The bits that the shift left pushes out are lost, and the shift right brings the others back. -/
theorem toNat_shiftRight_shiftLeft (x : Pattern) {n : Nat} (hn : n < 256) :
    (shiftRight (shiftLeft x n) n).toNat = x.toNat % 2 ^ (256 - n) := by
  have hpow : 2 ^ 256 = 2 ^ (256 - n) * 2 ^ n := by rw [← Nat.pow_add, Nat.sub_add_cancel hn.le]
  rw [toNat_shiftRight, toNat_shiftLeft, hpow, Nat.mul_mod_mul_right, Nat.mul_div_cancel _ (Nat.two_pow_pos n)]

/-! ### The two-stage shifters, limb by limb -/

theorem getLsbD_limb (p : Pattern) (i : Nat) {j : Nat} (hj : j < 64) :
    (limb p i).getLsbD j = p.getLsbD (64 * i + j) := by
  rw [limb, BitVec.getLsbD_extractLsb', decide_eq_true hj, Bool.true_and]

/-- 64 bits from position `lo` on, where `lo` is at or above the top of the pattern, are zeros. -/
theorem slice_of_ge (x : Pattern) {lo : Nat} (h : 256 ≤ lo) : x.extractLsb' lo 64 = 0#64 := by
  apply BitVec.eq_of_getLsbD_eq
  intro j hj
  rw [BitVec.getLsbD_extractLsb', BitVec.getLsbD_of_ge _ _ (Nat.le_add_right_of_le h), Bool.and_false]
  exact BitVec.getLsbD_zero.symm

/-- The sub-limb stage: two neighbouring limbs, shifted against each other, give the 64 bits from bit `c` of the lower
one on. -/
theorem funnel_eq_slice (x : Pattern) (i : Nat) {b c : Nat} (h : b + c = 64) :
    limb x (i + 1) <<< b ||| limb x i >>> c = x.extractLsb' (64 * i + c) 64 := by
  apply BitVec.eq_of_getLsbD_eq
  intro j hj
  rw [BitVec.getLsbD_or, BitVec.getLsbD_shiftLeft, BitVec.getLsbD_ushiftRight, BitVec.getLsbD_extractLsb',
    decide_eq_true hj]
  by_cases hlow : j < b
  · have hcj : c + j < 64 := by omega
    rw [getLsbD_limb _ _ hcj, Nat.add_assoc]
    simp [hlow]
  · have hidx : 64 * (i + 1) + (j - b) = 64 * i + c + j := by omega
    rw [getLsbD_limb _ _ (Nat.sub_lt_of_lt hj), hidx, BitVec.getLsbD_of_ge (limb x i) _ (by omega)]
    simp [hlow]

/-- A limb of the right shift is the 64 bits of the source that lie `n` higher. -/
theorem limb_ushiftRight (x : Pattern) (n i : Nat) : limb (x >>> n) i = x.extractLsb' (n + 64 * i) 64 := by
  apply BitVec.eq_of_getLsbD_eq
  intro j hj
  rw [getLsbD_limb _ _ hj, BitVec.getLsbD_ushiftRight, BitVec.getLsbD_extractLsb', decide_eq_true hj, Bool.true_and,
    Nat.add_assoc]

section LeftShift

variable (x : Pattern) {n i : Nat} (hi : i < 4)
include hi

/-- A limb that the shifted pattern covers is the 64 bits of the source that lie `n` lower. -/
theorem limb_shiftLeft_of_le (hn : n ≤ 64 * i) : limb (x <<< n) i = x.extractLsb' (64 * i - n) 64 := by
  apply BitVec.eq_of_getLsbD_eq
  intro j hj
  have hbit : 64 * i + j < 256 := by omega
  have hin : ¬ 64 * i + j < n := by omega
  have hidx : 64 * i + j - n = 64 * i - n + j := by omega
  rw [getLsbD_limb _ _ hj, BitVec.getLsbD_shiftLeft, BitVec.getLsbD_extractLsb', hidx]
  simp [hbit, hin, hj]

/-- A limb that begins at or below bit `n` gets the low limb of the source, moved up, over zeros. -/
theorem limb_shiftLeft_of_ge (hn : 64 * i ≤ n) : limb (x <<< n) i = limb x 0 <<< (n - 64 * i) := by
  apply BitVec.eq_of_getLsbD_eq
  intro j hj
  have hbit : 64 * i + j < 256 := by omega
  have hfill : 64 * i + j < n ↔ j < n - 64 * i := by omega
  have hidx : 64 * i + j - n = 64 * 0 + (j - (n - 64 * i)) := by omega
  rw [getLsbD_limb _ _ hj, BitVec.getLsbD_shiftLeft, BitVec.getLsbD_shiftLeft, hidx,
    getLsbD_limb _ _ (Nat.sub_lt_of_lt hj)]
  simp [hbit, hfill, hj]

/-- The branches of the left shifter: a limb of zeros, a whole limb moved, two source limbs, and the lowest source limb
over zeros. -/
theorem limb_shiftLeft_eq_shlLimb : limb (x <<< n) i = shlLimb x n i := by
  have hn := Nat.div_add_mod n 64
  rw [shlLimb]
  dsimp only
  split_ifs with hzero hwhole hlower
  · rw [limb_shiftLeft_of_ge x hi (by omega)]
    exact BitVec.shiftLeft_eq_zero (by omega)
  · rw [limb_shiftLeft_of_le x hi (by omega), limb]
    congr 1
    omega
  · obtain ⟨m, hm⟩ : ∃ m, i - n / 64 = m + 1 := Nat.exists_eq_add_one.2 (by omega)
    rw [limb_shiftLeft_of_le x hi (by omega), hm, Nat.add_sub_cancel, funnel_eq_slice x m (by omega)]
    congr 1
    omega
  · obtain rfl : i = n / 64 := by omega
    have hb : n - 64 * (n / 64) = n % 64 := by omega
    rw [limb_shiftLeft_of_ge x hi (by omega), hb, Nat.sub_self]
    exact BitVec.or_zero.symm

end LeftShift

/-- The branches of the right shifter: a limb of zeros, a whole limb moved, two source limbs, and the top source limb,
above which the funnel finds zeros. -/
theorem limb_ushiftRight_eq_shrLimb (x : Pattern) (n i : Nat) : limb (x >>> n) i = shrLimb x n i := by
  have hn := Nat.div_add_mod n 64
  rw [limb_ushiftRight, shrLimb]
  dsimp only
  split_ifs with hzero hwhole hupper
  · exact slice_of_ge x (by omega)
  · rw [limb]
    congr 1
    omega
  · rw [BitVec.or_comm, funnel_eq_slice x _ (by omega)]
    congr 1
    omega
  · have htop : limb x (i + n / 64 + 1) = 0#64 := slice_of_ge x (by omega)
    have hfill : limb x (i + n / 64 + 1) <<< (64 - n % 64) = 0 := by rw [htop]; exact BitVec.zero_shiftLeft _
    rw [← hfill, BitVec.or_comm, funnel_eq_slice x _ (by omega)]
    congr 1
    omega

theorem shiftLeft_eq_shlLimbs (x : Pattern) (n : Nat) : shiftLeft x n = shlLimbs x n := by
  rw [shiftLeft_eq, shlLimbs, ← limb_shiftLeft_eq_shlLimb x (by decide : 3 < 4),
    ← limb_shiftLeft_eq_shlLimb x (by decide : 2 < 4), ← limb_shiftLeft_eq_shlLimb x (by decide : 1 < 4),
    ← limb_shiftLeft_eq_shlLimb x (by decide : 0 < 4), ofLimbs_limb]

theorem shiftRight_eq_shrLimbs (x : Pattern) (n : Nat) : shiftRight x n = shrLimbs x n := by
  simp only [shrLimbs, ← limb_ushiftRight_eq_shrLimb, ofLimbs_limb, shiftRight_eq]

/-! ### The commands -/

/-- Settles O41: each command is one register write, of the library's bitwise operation on the operands. -/
theorem bitwiseCommandsActBitByBit : Obligations.BitwiseCommandsActBitByBit := by
  refine ⟨encodedR2_of_row (by decide) rfl, encodedR3_of_row (by decide) rfl, encodedR3_of_row (by decide) rfl,
    encodedR3_of_row (by decide) rfl, fun rd ra rb s => ⟨?not, ?and, ?or, ?xor⟩⟩
  case not =>
    refine ⟨_, _, rfl, s.setReg_writesOnlyReg rd _, BitVec.toNat_not, fun i hi => ?_⟩
    rw [BitVec.getLsbD_not, decide_eq_true hi, Bool.true_and]
  case and => exact ⟨_, _, rfl, s.setReg_writesOnlyReg rd _, fun _ _ => BitVec.getLsbD_and⟩
  case or => exact ⟨_, _, rfl, s.setReg_writesOnlyReg rd _, fun _ _ => BitVec.getLsbD_or⟩
  case xor => exact ⟨_, _, rfl, s.setReg_writesOnlyReg rd _, fun _ _ => BitVec.getLsbD_xor⟩

/-- Settles O42: the register write is of `shiftLeft`, zero from count 256 on and below it the shifter's value. -/
theorem shlShiftsInZeros : Obligations.ShlShiftsInZeros := by
  refine ⟨encodedRI_of_row (by decide) rfl, fun rd ra n s => ?_⟩
  exact ⟨_, _, rfl, s.setReg_writesOnlyReg rd _, fun hn => if_pos hn,
    fun _ => ⟨toNat_shiftLeft _ n, shiftLeft_eq_shlLimbs _ n⟩⟩

/-- Settles O43: the register write is of `shiftRight`, zero from count 256 on and below it the shifter's value. -/
theorem shrShiftsInZeros : Obligations.ShrShiftsInZeros := by
  refine ⟨encodedRI_of_row (by decide) rfl, fun rd ra n s => ?_⟩
  exact ⟨_, _, rfl, s.setReg_writesOnlyReg rd _, fun hn => if_pos hn,
    fun _ => ⟨toNat_shiftRight _ n, shiftRight_eq_shrLimbs _ n⟩⟩

/-- Settles O44: the shifts are the library's, which compose for all counts; the rest is Boolean algebra of each bit. -/
theorem shiftAndBitwiseLaws : Obligations.ShiftAndBitwiseLaws := by
  intro x y z a b
  refine ⟨?_, ?_, toNat_shiftRight_shiftLeft x, BitVec.and_assoc x y z, BitVec.or_assoc x y z, BitVec.xor_assoc x y z,
    BitVec.and_comm x y, BitVec.or_comm x y, BitVec.xor_comm x y, BitVec.not_and⟩
  · simp only [shiftLeft_eq, BitVec.shiftLeft_add]
  · simp only [shiftRight_eq, BitVec.shiftRight_add]

end Sys2Proof.Machine
end

section
/-! Sign (44_sign.md R180 to R188): every test of a sign is a test of the sign of `signed`, which bit 255 shows; the
negation and the magnitude are the two's complement ones of the library; and what SIGNUM, ISNEG, NEG, ABS, SGT and SGTE
write. -/

namespace Sys2Proof.Machine

/-! ### Learning a sign (44_sign.md R180 to R182) -/

theorem signed_eq_zero_iff (x : Pattern) : signed x = 0 ↔ x = 0 := by
  rw [signed_eq_toInt]
  exact BitVec.toInt_inj (y := 0#256)

theorem msb_iff_signed_neg (x : Pattern) : x.msb = true ↔ signed x < 0 := by
  rw [signed_eq_toInt, BitVec.msb_eq_toInt, decide_eq_true_iff]

theorem signum_eq_sign (x : Pattern) : signum x = (signed x).sign := by
  rw [signum]
  split_ifs with hzero hneg
  · rw [(signed_eq_zero_iff x).2 hzero, Int.sign_zero]
  · exact (Int.sign_eq_neg_one_of_neg ((msb_iff_signed_neg x).1 hneg)).symm
  · have hnonneg : 0 ≤ signed x := Int.not_lt.1 (mt (msb_iff_signed_neg x).2 hneg)
    have hne : signed x ≠ 0 := mt (signed_eq_zero_iff x).1 hzero
    exact (Int.sign_eq_one_of_pos (hnonneg.lt_of_ne' hne)).symm

/-- Bit 255 is clear exactly when the top limb is below its own half, 2^63 (90_conflicts.md C3). -/
theorem msb_eq_false_iff_limb (x : Pattern) : x.msb = false ↔ (limb x 3).toNat < 2 ^ 63 := by
  have hx := x.isLt
  rw [BitVec.msb_eq_false_iff_two_mul_lt, toNat_limb]
  omega

theorem signum_eq_signumLimbs (x : Pattern) : signum x = signumLimbs x := by
  have hzero : x = 0 ↔ limb x 0 = 0 ∧ limb x 1 = 0 ∧ limb x 2 = 0 ∧ limb x 3 = 0 := by
    simpa using eq_iff_limbs x 0
  rw [signum, signumLimbs]
  simp only [← hzero, ← msb_eq_false_iff_limb]
  cases x.msb <;> rfl

section SgCode

variable {x : Pattern}

theorem sgCode_of_zero (h : signed x = 0) : sgCode x = 0b00#2 := by
  rw [sgCode, signum_eq_sign, h]
  rfl

theorem sgCode_of_pos (h : 0 < signed x) : sgCode x = 0b01#2 := by
  rw [sgCode, signum_eq_sign, Int.sign_eq_one_of_pos h]
  rfl

theorem sgCode_of_neg (h : signed x < 0) : sgCode x = 0b11#2 := by
  rw [sgCode, signum_eq_sign, Int.sign_eq_neg_one_of_neg h]
  rfl

end SgCode

theorem signum_neg_iff (x : Pattern) : signum x < 0 ↔ signed x < 0 := by
  rw [signum_eq_sign, Int.sign_neg_iff]

theorem signum_eq_zero_iff (x : Pattern) : signum x = 0 ↔ x = 0 := by
  rw [signum_eq_sign, Int.sign_eq_zero_iff_zero, signed_eq_zero_iff]

theorem predIsneg_iff (x : Pattern) : predIsneg x = true ↔ signum x < 0 := decide_eq_true_iff

theorem predIsneg_eq_msb (x : Pattern) : predIsneg x = x.msb := by
  rw [Bool.eq_iff_iff, predIsneg_iff, signum_neg_iff, msb_iff_signed_neg]

/-! ### Negation and magnitude (44_sign.md R183, R184) -/

/-- MINP is the library's least two's complement number. -/
theorem minP_eq_intMin : minP = BitVec.intMin 256 := by decide

@[simp] theorem neg256_eq_neg (x : Pattern) : neg256 x = -x := (BitVec.neg_eq_not_add x).symm

@[simp] theorem negValue_eq_neg (x : Pattern) : negValue x = -x := by
  rw [negValue, neg256_eq_neg, ite_eq_right_iff]
  rintro rfl
  exact (BitVec.neg_zero 256).symm

theorem neg_minP : -minP = minP := by
  rw [minP_eq_intMin, BitVec.neg_intMin]

/-- Negation fits the signed range but for MINP. -/
theorem signed_neg {x : Pattern} (h : x ≠ minP) : signed (-x) = -signed x := by
  rw [minP_eq_intMin] at h
  simp only [signed_eq_toInt, BitVec.toInt_neg_of_ne_intMin h]

theorem detectNeg_minP : detectNeg minP = some .overflow := if_pos rfl

theorem detectNeg_of_ne {x : Pattern} (h : x ≠ minP) : detectNeg x = none := if_neg h

theorem abs256_of_nonneg {x : Pattern} (h : 0 ≤ signed x) : abs256 x = x :=
  if_neg (mt (msb_iff_signed_neg x).1 h.not_gt)

theorem abs256_of_neg {x : Pattern} (h : signed x < 0) : abs256 x = -x := by
  rw [abs256, if_pos ((msb_iff_signed_neg x).2 h), neg256_eq_neg]

theorem toNat_of_nonneg {x : Pattern} (h : 0 ≤ signed x) : (x.toNat : Int) = signed x := by
  have hmsb : x.msb = false := Bool.eq_false_iff.2 (mt (msb_iff_signed_neg x).1 h.not_gt)
  rw [signed_eq_toInt, BitVec.toInt_eq_toNat_of_msb hmsb]

theorem toNat_neg_of_neg {x : Pattern} (h : signed x < 0) : ((-x).toNat : Int) = -signed x := by
  rw [signed_eq_toInt, BitVec.toInt_eq_neg_toNat_neg_of_msb_true ((msb_iff_signed_neg x).2 h), Int.neg_neg]

theorem toNat_abs256 (x : Pattern) : (abs256 x).toNat = (signed x).natAbs := by
  obtain hneg | hnonneg := lt_or_ge (signed x) 0
  · have := toNat_neg_of_neg hneg
    rw [abs256_of_neg hneg]
    omega
  · have := toNat_of_nonneg hnonneg
    rw [abs256_of_nonneg hnonneg]
    omega

theorem natAbs_signed_le (x : Pattern) : (signed x).natAbs ≤ 2 ^ 255 := by
  obtain ⟨hlow, hhigh⟩ := signed_inSignedRange x
  omega

/-! ### Signed order (44_sign.md R185 to R187) -/

theorem predSgt_iff (x y : Pattern) : predSgt x y = true ↔ signed y < signed x := decide_eq_true_iff

theorem predSgte_iff (x y : Pattern) : predSgte x y = true ↔ signed y ≤ signed x := decide_eq_true_iff

/-- Inverting bit 255 shifts the signed range up to start at 0: the bits below stay, and bit 255 is worth -2^255 in the
one view and 2^255 in the other. -/
theorem toNat_xor_minP (x : Pattern) : ((x ^^^ minP).toNat : Int) = signed x + 2 ^ 255 := by
  have hbelow : (x ^^^ minP).toNat % 2 ^ 255 = x.toNat % 2 ^ 255 := by
    rw [BitVec.toNat_xor, Nat.xor_mod_two_pow, show minP.toNat % 2 ^ 255 = 0 by decide, Nat.xor_zero]
  have htop : (x ^^^ minP).msb = !x.msb := by
    rw [BitVec.msb_xor, show minP.msb = true by decide, Bool.xor_true]
  have hx := x.isLt
  have hxor := (x ^^^ minP).isLt
  rw [signed]
  cases hmsb : x.msb
  case false =>
    rw [hmsb, Bool.not_false, BitVec.msb_eq_true_iff_two_mul_ge] at htop
    rw [BitVec.msb_eq_false_iff_two_mul_lt] at hmsb
    simp only [Bool.false_eq_true, if_false]
    omega
  case true =>
    rw [hmsb, Bool.not_true, BitVec.msb_eq_false_iff_two_mul_lt] at htop
    rw [BitVec.msb_eq_true_iff_two_mul_ge] at hmsb
    simp only [if_true]
    omega

theorem signed_gt_iff_xor_minP (x y : Pattern) : signed x > signed y ↔ (x ^^^ minP).toNat > (y ^^^ minP).toNat := by
  have hx := toNat_xor_minP x
  have hy := toNat_xor_minP y
  omega

/-! ### The commands -/

/-- Settles O45: the write of SG is of `sgCode`, which follows `signum`, the sign of the signed view. -/
theorem signumWritesTheSign : Obligations.SignumWritesTheSign := by
  refine ⟨encodedC1_of_row (by decide) rfl, fun x => ⟨signum_eq_signumLimbs x, signum_eq_sign x⟩, fun ra s => ?_⟩
  exact ⟨_, _, rfl, s.setSG_writesOnlySG _, sgCode_of_zero, sgCode_of_pos, sgCode_of_neg⟩

/-- Settles O46: the write of T is of `predIsneg`, which is the most significant bit. -/
theorem isnegTestsTheTopBit : Obligations.IsnegTestsTheTopBit := by
  refine ⟨encodedC1_of_row (by decide) rfl, fun ra s => ?_⟩
  refine ⟨_, _, rfl, s.setT_writesOnlyT _, ?_, predIsneg_iff _, ?_⟩
  · rw [predIsneg_iff, signum_neg_iff]
  · rw [predIsneg_eq_msb, BitVec.msb_eq_getLsbD_last]

/-- Settles O47: the value is the library's negation, and the detector tells MINP, where it wraps, from the rest. -/
theorem negNegatesAndFaultsAtTheMinimum : Obligations.NegNegatesAndFaultsAtTheMinimum := by
  refine ⟨encodedR2_of_row (by decide) rfl, fun rd ra s => ⟨fun hne => ?_, fun hmin => ?_⟩, fun x => ⟨?_, ?_⟩⟩
  · refine ⟨_, -s.srcA ra, rfl, ?_, signed_neg hne⟩
    rw [negValue_eq_neg, detectNeg_of_ne hne]
    exact s.commitChecked_none rd _
  · refine ⟨_, rfl, ?_⟩
    rw [hmin, negValue_eq_neg, neg_minP, detectNeg_minP]
    exact s.commitChecked_some rd minP .overflow
  · rw [negValue_eq_neg, negValue_eq_neg, BitVec.neg_neg]
  · rw [negValue_eq_neg, neg256_eq_neg]

/-- Settles O48: ABS is one register write, of `abs256`, so it raises no fault at MINP either. -/
theorem absIsTheUnsignedMagnitude : Obligations.AbsIsTheUnsignedMagnitude := by
  refine ⟨encodedR2_of_row (by decide) rfl, fun rd ra s => ?_⟩
  refine ⟨_, _, rfl, s.setReg_writesOnlyReg rd _, toNat_abs256 _, ?_⟩
  rw [toNat_abs256]
  exact natAbs_signed_le _

/-- Settles O49: the writes of T are of `predSgt` and `predSgte`; the comparator from the shift of the signed range. -/
theorem signedComparisonFollowsTheSignedView : Obligations.SignedComparisonFollowsTheSignedView := by
  refine ⟨encodedC2_of_row (by decide) rfl, encodedC2_of_row (by decide) rfl, fun ra rb s => ⟨?sgt, ?sgte⟩,
    signed_gt_iff_xor_minP⟩
  case sgt => exact ⟨_, _, rfl, s.setT_writesOnlyT _, predSgt_iff _ _⟩
  case sgte => exact ⟨_, _, rfl, s.setT_writesOnlyT _, predSgte_iff _ _⟩

/-- Settles O50, from the sign of the signed view and the library's negation. -/
theorem signLaws : Obligations.SignLaws := by
  intro x
  rw [signum_eq_zero_iff, predIsz_iff, predIsneg_eq_msb, signum_neg_iff, signum_eq_sign, Int.sign_nonneg_iff,
    negValue_eq_neg, negValue_eq_neg]
  exact ⟨Iff.rfl, BitVec.msb_eq_getLsbD_last x, abs256_of_nonneg, abs256_of_neg, signed_neg, neg_minP,
    (BitVec.zero_sub x).symm⟩

end Sys2Proof.Machine
end

section
/-! Checked signed arithmetic (45_signed_checked.md R200 to R205): the detectors test the signs of the signed view, the
wrapped result is the pattern of the true result, and the two agree where the true result is in the signed range. What
SADD, SSUB and SMUL write, and which results out of range they miss. -/

namespace Sys2Proof.Machine

/-! ### The detectors on the signed view (45_signed_checked.md R200) -/

theorem signum_pos_iff (x : Pattern) : 0 < signum x ↔ 0 < signed x := by
  rw [signum_eq_sign, Int.sign_pos_iff]

theorem detect_detectAdd (x y z : Pattern) : detect detectAdd x y z = detectAdd (signed x) (signed y) (signed z) := by
  simp only [detect, detectAdd, signum_pos_iff, signum_neg_iff]

theorem detect_detectSub (x y z : Pattern) : detect detectSub x y z = detectSub (signed x) (signed y) (signed z) := by
  simp only [detect, detectSub, signum_pos_iff, signum_neg_iff]

theorem detect_detectMul (x y z : Pattern) : detect detectMul x y z = detectMul (signed x) (signed y) (signed z) := by
  simp only [detect, detectMul, signum_pos_iff, signum_neg_iff]

/-- The two overflow rows of the Mul detector are one: operands of the same sign and a negative result. -/
theorem detectMul_eq (X Y Z : Int) :
    detectMul X Y Z =
      if (0 < X ∧ 0 < Y ∨ X < 0 ∧ Y < 0) ∧ Z < 0 then some .overflow
      else if (0 < X ∧ Y < 0 ∨ X < 0 ∧ 0 < Y) ∧ 0 < Z then some .underflow
      else none := by
  simp only [detectMul, or_and_right, and_assoc, ite_or]

section Table

variable (p q : Prop) [Decidable p] [Decidable q]

theorem overflow_underflow_eq_none_iff :
    (if p then some Cause.overflow else if q then some Cause.underflow else none) = none ↔ ¬p ∧ ¬q := by
  by_cases hp : p <;> by_cases hq : q <;> simp [hp, hq]

/-- A checked command whose detector has an overflow and an underflow row does what the row that applies says. -/
theorem State.commitChecked_overflow_underflow (s : State) (rd : Reg) (z : Pattern) {c : Option Cause}
    (hc : c = if p then some .overflow else if q then some .underflow else none) :
    if p then WritesRegThenFaults rd z .overflow s (s.commitChecked rd z c)
    else if q then WritesRegThenFaults rd z .underflow s (s.commitChecked rd z c)
    else WritesOnlyReg rd z s (s.commitChecked rd z c) := by
  subst hc
  split_ifs
  · exact s.commitChecked_some rd z .overflow
  · exact s.commitChecked_some rd z .underflow
  · exact s.commitChecked_none rd z

end Table

/-! ### The wrapped result (45_signed_checked.md R201) -/

theorem add_eq_toPattern (x y : Pattern) : x + y = toPattern (signed x + signed y) := by
  rw [signed_eq_toInt, signed_eq_toInt, toPattern, BitVec.ofInt_add, BitVec.ofInt_toInt, BitVec.ofInt_toInt]

theorem sub_eq_toPattern (x y : Pattern) : x - y = toPattern (signed x - signed y) := by
  rw [signed_eq_toInt, signed_eq_toInt, toPattern, Int.sub_eq_add_neg, BitVec.ofInt_add, BitVec.ofInt_neg,
    BitVec.ofInt_toInt, BitVec.ofInt_toInt, BitVec.sub_eq_add_neg]

theorem mul_eq_toPattern (x y : Pattern) : x * y = toPattern (signed x * signed y) := by
  rw [signed_eq_toInt, signed_eq_toInt, toPattern, BitVec.ofInt_mul, BitVec.ofInt_toInt, BitVec.ofInt_toInt]

/-- Wrapping into the signed range takes off a multiple of 2^256. -/
theorem signed_toPattern_emod (v : Int) : signed (toPattern v) % 2 ^ 256 = v % 2 ^ 256 := by
  rw [← toNat_toPattern v, signed]
  have hlt := (toPattern v).isLt
  split_ifs <;> omega

@[simp] theorem State.commitChecked_reg_self (s : State) (rd : Reg) (z : Pattern) (c : Option Cause) :
    (s.commitChecked rd z c).reg rd = z := by
  cases c with
  | none => exact s.setReg_reg_self rd z
  | some c => exact s.setReg_reg_self rd z

/-- From FAULT = 0, FAULT stays 0 exactly where the detector is silent. -/
theorem State.commitChecked_fault_iff {s : State} (h : s.status.fault = false) (rd : Reg) (z : Pattern)
    (c : Option Cause) : (s.commitChecked rd z c).status.fault = false ↔ c = none := by
  cases c with
  | none => exact iff_of_true h rfl
  | some c => exact iff_of_false nofun nofun

/-! ### The detectors and the true result (45_signed_checked.md R205)

With the true result in range the wrapped result is the true one, so its sign is the one that the operands predict. -/

theorem eq_minP_iff (x : Pattern) : x = minP ↔ signed x = -(2 ^ 255) := by
  rw [signed_eq_toInt, ← show minP.toInt = -(2 ^ 255) by decide, BitVec.toInt_inj]

section Add

variable {x y : Pattern}

theorem signed_add_of_inSignedRange (h : InSignedRange (signed x + signed y)) :
    signed (x + y) = signed x + signed y := by
  rw [add_eq_toPattern, signed_toPattern h]

theorem detectAdd_eq_none_iff (X Y Z : Int) :
    detectAdd X Y Z = none ↔ ¬(0 < X ∧ 0 < Y ∧ Z < 0) ∧ ¬(X < 0 ∧ Y < 0 ∧ 0 < Z) :=
  overflow_underflow_eq_none_iff _ _

theorem detect_add_of_inSignedRange (h : InSignedRange (signed x + signed y)) :
    detect detectAdd x y (x + y) = none := by
  rw [detect_detectAdd, signed_add_of_inSignedRange h, detectAdd_eq_none_iff]
  omega

/-- A sum out of range is one multiple of 2^256 off, so it has the wrong sign; or it is -2^256 and wraps to zero. -/
theorem detect_add_of_not_inSignedRange (h : ¬InSignedRange (signed x + signed y)) :
    detect detectAdd x y (x + y) = none ↔ x = minP ∧ y = minP := by
  have hx := signed_inSignedRange x
  have hy := signed_inSignedRange y
  have hz := signed_inSignedRange (x + y)
  have hmod : signed (x + y) % 2 ^ 256 = (signed x + signed y) % 2 ^ 256 := by
    rw [add_eq_toPattern, signed_toPattern_emod]
  rw [detect_detectAdd, detectAdd_eq_none_iff, eq_minP_iff, eq_minP_iff]
  rw [InSignedRange] at *
  omega

end Add

section Sub

variable {x y : Pattern}

theorem signed_sub_of_inSignedRange (h : InSignedRange (signed x - signed y)) :
    signed (x - y) = signed x - signed y := by
  rw [sub_eq_toPattern, signed_toPattern h]

theorem detectSub_eq_none_iff (X Y Z : Int) :
    detectSub X Y Z = none ↔ ¬(0 < X ∧ Y < 0 ∧ Z < 0) ∧ ¬(X < 0 ∧ 0 < Y ∧ 0 < Z) :=
  overflow_underflow_eq_none_iff _ _

theorem detect_sub_of_inSignedRange (h : InSignedRange (signed x - signed y)) :
    detect detectSub x y (x - y) = none := by
  rw [detect_detectSub, signed_sub_of_inSignedRange h, detectSub_eq_none_iff]
  omega

/-- A difference out of range has the wrong sign; the detector misses it where the first operand has no sign. -/
theorem detect_sub_of_not_inSignedRange (h : ¬InSignedRange (signed x - signed y)) :
    detect detectSub x y (x - y) = none ↔ x = 0 ∧ y = minP := by
  have hx := signed_inSignedRange x
  have hy := signed_inSignedRange y
  have hz := signed_inSignedRange (x - y)
  have hmod : signed (x - y) % 2 ^ 256 = (signed x - signed y) % 2 ^ 256 := by
    rw [sub_eq_toPattern, signed_toPattern_emod]
  rw [detect_detectSub, detectSub_eq_none_iff, ← signed_eq_zero_iff, eq_minP_iff]
  rw [InSignedRange] at *
  omega

end Sub

section Mul

variable {x y : Pattern}

theorem signed_mul_of_inSignedRange (h : InSignedRange (signed x * signed y)) :
    signed (x * y) = signed x * signed y := by
  rw [mul_eq_toPattern, signed_toPattern h]

/-- The Mul detector tests the sign of the true product against the sign of the result. -/
theorem detectMul_eq_none_iff (X Y Z : Int) :
    detectMul X Y Z = none ↔ ¬(0 < X * Y ∧ Z < 0) ∧ ¬(X * Y < 0 ∧ 0 < Z) := by
  rw [detectMul_eq, overflow_underflow_eq_none_iff, mul_pos_iff, mul_neg_iff]

theorem detect_mul_of_inSignedRange (h : InSignedRange (signed x * signed y)) :
    detect detectMul x y (x * y) = none := by
  rw [detect_detectMul, signed_mul_of_inSignedRange h, detectMul_eq_none_iff]
  omega

/-- A result has no sign opposite to that of a non-zero `P` exactly if it is zero or has the sign of `P`. -/
theorem not_opposite_sign_iff {P Z : Int} (hP : P ≠ 0) :
    ¬(0 < P ∧ Z < 0) ∧ ¬(P < 0 ∧ 0 < Z) ↔ Z = 0 ∨ Z.sign = P.sign := by
  obtain hneg | hpos := lt_or_gt_of_ne hP
  · rw [Int.sign_eq_neg_one_of_neg hneg, Int.sign_eq_neg_one_iff_neg]
    omega
  · rw [Int.sign_eq_one_of_pos hpos, Int.sign_eq_one_iff_pos]
    omega

theorem detect_mul_of_not_inSignedRange (h : ¬InSignedRange (signed x * signed y)) :
    detect detectMul x y (x * y) = none ↔
      signed (x * y) = 0 ∨ (signed (x * y)).sign = (signed x).sign * (signed y).sign := by
  have hne : signed x * signed y ≠ 0 := by
    rw [InSignedRange] at h
    omega
  rw [detect_detectMul, detectMul_eq_none_iff, not_opposite_sign_iff hne, Int.sign_mul]

end Mul

/-! ### The commands -/

/-- Settles O51: the rows of the Add detector on the signed view are the cases of the statement. -/
theorem saddFollowsTheSignTable : Obligations.SaddFollowsTheSignTable := by
  refine ⟨encodedR3_of_row (by decide) rfl, fun rd ra rb s => ?_⟩
  exact ⟨_, _, rfl, BitVec.toNat_add _ _, s.commitChecked_overflow_underflow _ _ rd _ (detect_detectAdd _ _ _)⟩

/-- Settles O52: the rows of the Sub detector on the signed view are the cases of the statement. -/
theorem ssubFollowsTheSignTable : Obligations.SsubFollowsTheSignTable := by
  refine ⟨encodedR3_of_row (by decide) rfl, fun rd ra rb s => ?_⟩
  exact ⟨_, _, rfl, toNat_sub_eq_emod _ _, s.commitChecked_overflow_underflow _ _ rd _ (detect_detectSub _ _ _)⟩

/-- Settles O53: the rows of the Mul detector on the signed view, its two overflow rows as one. -/
theorem smulFollowsTheSignTable : Obligations.SmulFollowsTheSignTable := by
  refine ⟨encodedR3_of_row (by decide) rfl, fun rd ra rb s => ?_⟩
  exact ⟨_, _, rfl, BitVec.toNat_mul _ _, mul_eq_toPattern _ _,
    s.commitChecked_overflow_underflow _ _ rd _ ((detect_detectMul _ _ _).trans (detectMul_eq _ _ _))⟩

/-- Settles O54: FAULT and `W[rd]` show the detector's verdict and the wrapped result, in range and out of it. -/
theorem detectorsAreSoundAndMissOnlyTheListed : Obligations.DetectorsAreSoundAndMissOnlyTheListed := by
  intro rd ra rb s hfault
  refine ⟨⟨_, rfl, ?sadd⟩, ⟨_, rfl, ?ssub⟩, ⟨_, rfl, ?smul⟩⟩ <;>
    rw [State.commitChecked_fault_iff hfault, State.commitChecked_reg_self]
  case sadd =>
    exact ⟨fun h => ⟨detect_add_of_inSignedRange h, signed_add_of_inSignedRange h⟩, detect_add_of_not_inSignedRange⟩
  case ssub =>
    exact ⟨fun h => ⟨detect_sub_of_inSignedRange h, signed_sub_of_inSignedRange h⟩, detect_sub_of_not_inSignedRange⟩
  case smul =>
    exact ⟨fun h => ⟨detect_mul_of_inSignedRange h, signed_mul_of_inSignedRange h⟩, detect_mul_of_not_inSignedRange⟩

end Sys2Proof.Machine
end

section
/-! Signed division (46_signed_division.md R220 to R229): the patterns of each convention are those of the library's
truncated, floored and Euclidean quotient and remainder of the signed views. What the identity `Y*Q + R = X` and
`|R| < |Y|` say of ranges and of the checked commands is proved once, for any convention. -/

namespace Sys2Proof.Machine

/-! ### The pattern of a signed number, by its sign -/

theorem toPattern_neg (v : Int) : toPattern (-v) = -toPattern v := BitVec.ofInt_neg

theorem toPattern_add (v w : Int) : toPattern (v + w) = toPattern v + toPattern w := BitVec.ofInt_add v w

theorem toPattern_sub (v w : Int) : toPattern (v - w) = toPattern v - toPattern w := by
  rw [Int.sub_eq_add_neg, toPattern_add, toPattern_neg, BitVec.sub_eq_add_neg]

theorem toPattern_of_nonneg {v : Int} (h : 0 ≤ v) : toPattern v = BitVec.ofNat 256 v.natAbs := by
  rw [← BitVec.ofInt_natCast, Int.natAbs_of_nonneg h, toPattern]

theorem toPattern_of_nonpos {v : Int} (h : v ≤ 0) : toPattern v = -BitVec.ofNat 256 v.natAbs := by
  rw [← Int.natAbs_neg, ← toPattern_of_nonneg (Int.neg_nonneg_of_nonpos h), toPattern_neg, BitVec.neg_neg]

theorem toPattern_mul_signed (v : Int) (y : Pattern) : toPattern (v * signed y) = toPattern v * y := by
  rw [toPattern, BitVec.ofInt_mul, ← toPattern, ← toPattern, toPattern_signed]

theorem abs256_eq_toPattern (x : Pattern) : abs256 x = toPattern (signed x).natAbs := by
  rw [toPattern, BitVec.ofInt_natCast, ← toNat_abs256, BitVec.ofNat_toNat, BitVec.setWidth_eq]

theorem msb_eq_msb_iff (x y : Pattern) : x.msb = y.msb ↔ (signed x < 0 ↔ signed y < 0) := by
  rw [Bool.eq_iff_iff, msb_iff_signed_neg, msb_iff_signed_neg]

theorem signed_ne_zero {y : Pattern} (hy : y ≠ 0) : signed y ≠ 0 := mt (signed_eq_zero_iff y).1 hy

/-! ### Signs, and the corrections of the truncated pair (46_signed_division.md R222 to R227) -/

theorem tdiv_nonneg_of_same_sign {X Y : Int} (h : X < 0 ↔ Y < 0) : 0 ≤ X.tdiv Y := by
  obtain hX | hX := Int.lt_or_le X 0
  · exact Int.tdiv_nonneg_of_nonpos_of_nonpos hX.le (h.1 hX).le
  · exact Int.tdiv_nonneg hX (by omega)

theorem tdiv_nonpos_of_opposite_signs {X Y : Int} (h : ¬(X < 0 ↔ Y < 0)) : X.tdiv Y ≤ 0 := by
  have hneg := tdiv_nonneg_of_same_sign (X := X) (Y := -Y)
  rw [Int.tdiv_neg] at hneg
  by_cases hY : Y = 0
  · simp [hY]
  · have := hneg (by omega)
    omega

theorem tmod_nonpos {X : Int} (Y : Int) (h : X ≤ 0) : X.tmod Y ≤ 0 := by
  have := Int.tmod_nonneg Y (Int.neg_nonneg_of_nonpos h)
  rw [Int.neg_tmod] at this
  exact Int.nonpos_of_neg_nonneg this

theorem fmod_bounds_of_neg (X : Int) {Y : Int} (h : Y < 0) : Y < X.fmod Y ∧ X.fmod Y ≤ 0 := by
  have hnonneg := Int.fmod_nonneg_of_pos (-X) (Int.neg_pos_of_neg h)
  have hlt := Int.fmod_lt_of_pos (-X) (Int.neg_pos_of_neg h)
  rw [Int.neg_fmod_neg] at hnonneg hlt
  omega

theorem fmod_zero_or_sign (X : Int) {Y : Int} (hY : Y ≠ 0) : X.fmod Y = 0 ∨ (X.fmod Y).sign = Y.sign := by
  obtain hneg | hpos := Int.lt_or_gt_of_ne hY
  · have := fmod_bounds_of_neg X hneg
    rw [Int.sign_eq_neg_one_of_neg hneg, Int.sign_eq_neg_one_iff_neg]
    omega
  · have := Int.fmod_nonneg_of_pos X hpos
    rw [Int.sign_eq_one_of_pos hpos, Int.sign_eq_one_iff_pos]
    omega

/-- The floored quotient is one below the truncated one where the division is inexact and the signs differ. -/
theorem fdiv_eq_tdiv_sub (X : Int) {Y : Int} (hY : Y ≠ 0) :
    X.fdiv Y = X.tdiv Y - if ¬Y ∣ X ∧ ¬(X < 0 ↔ Y < 0) then 1 else 0 := by
  rw [Int.fdiv_eq_tdiv]
  obtain hneg | hpos := Int.lt_or_gt_of_ne hY
  · rw [Int.sign_eq_neg_one_of_neg hneg]
    split_ifs <;> omega
  · rw [Int.sign_eq_one_of_pos hpos]
    split_ifs <;> omega

theorem nonneg_or_dvd_iff (X Y : Int) : 0 ≤ X ∨ Y ∣ X ↔ ¬(¬Y ∣ X ∧ X < 0) := by
  rw [or_comm, or_iff_not_and_not, Int.not_le]

/-- The Euclidean quotient is corrected where the truncated remainder is negative. -/
theorem ediv_eq_tdiv_sub (X Y : Int) : X / Y = X.tdiv Y - if ¬Y ∣ X ∧ X < 0 then Y.sign else 0 := by
  simp only [Int.ediv_eq_tdiv, nonneg_or_dvd_iff, ite_not]

theorem emod_eq_tmod_add (X Y : Int) : X % Y = X.tmod Y + if ¬Y ∣ X ∧ X < 0 then (Y.natAbs : Int) else 0 := by
  simp only [Int.emod_eq_tmod, nonneg_or_dvd_iff, ite_not, Nat.cast_ite, Nat.cast_zero]

/-! ### The three conventions on the signed views (46_signed_division.md R220 to R227) -/

section Values

variable (x y : Pattern)

theorem magQuo_eq : magQuo x y = BitVec.ofNat 256 ((signed x).tdiv (signed y)).natAbs := by
  rw [magQuo, udivQuo, toNat_abs256, toNat_abs256, Int.natAbs_tdiv]
  rfl

theorem magRem_eq : magRem x y = BitVec.ofNat 256 ((signed x).tmod (signed y)).natAbs := by
  rw [magRem, udivRem, toNat_abs256, toNat_abs256, Int.natAbs_tmod]

/-- The division is exact where the magnitude remainder is zero. -/
theorem magRem_eq_zero_iff : magRem x y = 0 ↔ signed y ∣ signed x := by
  rw [magRem, ← BitVec.toNat_inj, toNat_udivRem, toNat_abs256, toNat_abs256, ← Int.natAbs_dvd_natAbs]
  exact (Nat.dvd_iff_mod_eq_zero).symm

theorem truncQuo_eq : truncQuo x y = toPattern ((signed x).tdiv (signed y)) := by
  rw [truncQuo, neg256_eq_neg, magQuo_eq]
  simp only [msb_eq_msb_iff]
  split_ifs with hsigns
  · exact (toPattern_of_nonneg (tdiv_nonneg_of_same_sign hsigns)).symm
  · exact (toPattern_of_nonpos (tdiv_nonpos_of_opposite_signs hsigns)).symm

theorem truncRem_eq : truncRem x y = toPattern ((signed x).tmod (signed y)) := by
  rw [truncRem, neg256_eq_neg, magRem_eq]
  simp only [msb_iff_signed_neg]
  split_ifs with hneg
  · exact (toPattern_of_nonpos (tmod_nonpos _ hneg.le)).symm
  · exact (toPattern_of_nonneg (Int.tmod_nonneg _ (Int.not_lt.1 hneg))).symm

variable {y} (hy : y ≠ 0)
include hy

theorem floorQuo_eq : floorQuo x y = toPattern ((signed x).fdiv (signed y)) := by
  rw [floorQuo, truncQuo_eq, fdiv_eq_tdiv_sub _ (signed_ne_zero hy)]
  simp only [ne_eq, magRem_eq_zero_iff, msb_eq_msb_iff]
  split_ifs
  · rw [toPattern_sub]
    rfl
  · rw [Int.sub_zero]

theorem floorRem_eq : floorRem x y = toPattern ((signed x).fmod (signed y)) := by
  rw [floorRem, truncRem_eq, Int.fmod_def, fdiv_eq_tdiv_sub _ (signed_ne_zero hy)]
  simp only [ne_eq, magRem_eq_zero_iff, msb_eq_msb_iff]
  split_ifs
  · rw [Int.mul_sub, Int.mul_one, ← sub_add, ← Int.tmod_def, toPattern_add, toPattern_signed]
  · rw [Int.sub_zero, Int.tmod_def]

theorem euclidQuo_eq : euclidQuo x y = toPattern ((signed x).ediv (signed y)) := by
  have hY := signed_ne_zero hy
  change _ = toPattern (signed x / signed y)
  rw [euclidQuo, truncQuo_eq, ediv_eq_tdiv_sub]
  simp only [ne_eq, magRem_eq_zero_iff, msb_iff_signed_neg]
  split_ifs with hinexact hneg
  · rw [Int.sign_eq_neg_one_of_neg hneg, Int.sub_neg, toPattern_add]
    rfl
  · rw [Int.sign_eq_one_of_pos (by omega), toPattern_sub]
    rfl
  · rw [Int.sub_zero]

theorem euclidRem_eq : euclidRem x y = toPattern (signed x % signed y) := by
  have hmod := emod_eq_tmod_add (signed x) (signed y)
  rw [euclidRem]
  simp only [ne_eq, magRem_eq_zero_iff, msb_iff_signed_neg]
  split_ifs at hmod ⊢ with h
  · have hneg : 0 ≤ -(signed x).tmod (signed y) := Int.neg_nonneg_of_nonpos (tmod_nonpos _ h.2.le)
    rw [magRem_eq, ← Int.natAbs_neg, ← toPattern_of_nonneg hneg, abs256_eq_toPattern, ← toPattern_sub, hmod]
    congr 1
    omega
  · rw [Int.add_zero] at hmod
    rw [magRem_eq, ← hmod, toPattern_of_nonneg (Int.emod_nonneg _ (signed_ne_zero hy))]

end Values

/-! ### What the conventions share -/

/-- `Q` and `R` are a quotient and a remainder of `X` by `Y`: the identity, and a remainder smaller than the divisor. -/
structure IsDivision (X Y Q R : Int) : Prop where
  identity : Y * Q + R = X
  small : R.natAbs < Y.natAbs

section Conventions

variable (X : Int) {Y : Int} (hY : Y ≠ 0)
include hY

theorem isDivision_trunc : IsDivision X Y (X.tdiv Y) (X.tmod Y) where
  identity := Int.mul_tdiv_add_tmod X Y
  small := by
    rw [Int.natAbs_tmod]
    exact Nat.mod_lt _ (Int.natAbs_pos.2 hY)

theorem isDivision_floor : IsDivision X Y (X.fdiv Y) (X.fmod Y) where
  identity := Int.mul_fdiv_add_fmod X Y
  small := by
    obtain hneg | hpos := Int.lt_or_gt_of_ne hY
    · have := fmod_bounds_of_neg X hneg
      omega
    · have := Int.fmod_nonneg_of_pos X hpos
      have := Int.fmod_lt_of_pos X hpos
      omega

theorem isDivision_euclid : IsDivision X Y (X.ediv Y) (X % Y) where
  identity := Int.mul_ediv_add_emod X Y
  small := by
    have hnonneg := Int.emod_nonneg X hY
    have hlt := Int.emod_lt X hY
    omega

end Conventions

theorem IsDivision.remainder_eq {X Y Q R : Int} (h : IsDivision X Y Q R) : R = X - Y * Q :=
  eq_sub_of_add_eq' h.identity

/-! ### Ranges and detectors for any convention (46_signed_division.md R228, R229) -/

theorem eq_maxU_iff (y : Pattern) : y = maxU ↔ signed y = -1 := by
  rw [signed_eq_toInt, ← show maxU.toInt = -1 by decide, BitVec.toInt_inj]

/-- A product of magnitude below 2^256 wraps at most once, and then into the wrong sign. -/
theorem detect_mul_of_natAbs_lt {x y : Pattern} (h : (signed x * signed y).natAbs < 2 ^ 256) :
    detect detectMul x y (x * y) = none ↔ InSignedRange (signed x * signed y) := by
  refine ⟨fun hnone => ?_, detect_mul_of_inSignedRange⟩
  have hz := signed_inSignedRange (x * y)
  have hmod : signed (x * y) % 2 ^ 256 = (signed x * signed y) % 2 ^ 256 := by
    rw [mul_eq_toPattern, signed_toPattern_emod]
  rw [detect_detectMul, detectMul_eq_none_iff] at hnone
  rw [InSignedRange] at *
  omega

section Division

variable {x y : Pattern} {Q R : Int} (h : IsDivision (signed x) (signed y) Q R)
include h

/-- The identity of 46_signed_division.md R229, modulo 2^256. -/
theorem IsDivision.pattern_identity : toPattern Q * y + toPattern R = x := by
  rw [← toPattern_mul_signed, ← toPattern_add, Int.mul_comm, h.identity, toPattern_signed]

theorem IsDivision.remainder_inSignedRange : InSignedRange R := by
  have hy := natAbs_signed_le y
  have hsmall := h.small
  rw [InSignedRange]
  omega

theorem IsDivision.signed_remainder : signed (toPattern R) = R :=
  signed_toPattern h.remainder_inSignedRange

/-- A divisor of magnitude 2 or more keeps the quotient within the range. -/
theorem IsDivision.natAbs_quotient_lt (hy : 2 ≤ (signed y).natAbs) : Q.natAbs < 2 ^ 255 := by
  have hx := natAbs_signed_le x
  have hsmall := h.small
  have hproduct : (signed y * Q).natAbs < 2 ^ 255 + (signed y).natAbs := by
    have := h.identity
    omega
  rw [Int.natAbs_mul] at hproduct
  by_contra hlarge
  have hmul := Nat.mul_le_mul_left (signed y).natAbs (Nat.not_lt.1 hlarge)
  omega

/-- By 1 and -1 the quotient is the dividend and its negation; only the negation of MINP does not fit. -/
theorem IsDivision.quotient_inSignedRange : x = minP ∧ y = maxU ∨ InSignedRange Q := by
  have hx := signed_inSignedRange x
  have hsmall := h.small
  have hidentity := h.identity
  rw [eq_minP_iff, eq_maxU_iff]
  rw [InSignedRange] at *
  obtain hone | hlarge := Nat.lt_or_ge (signed y).natAbs 2
  · obtain hpos | hneg : signed y = 1 ∨ signed y = -1 := by omega
    · rw [hpos] at hidentity
      omega
    · rw [hneg] at hidentity
      omega
  · have := h.natAbs_quotient_lt hlarge
    omega

/-- The product of quotient and divisor that SMUL is asked for: of MINP / -1 it is 2^255. -/
theorem IsDivision.product_eq :
    signed (toPattern Q) * signed y = 2 ^ 255 ∨ signed (toPattern Q) * signed y = signed x - R := by
  have hidentity := h.identity
  obtain ⟨hx, hy⟩ | hrange := h.quotient_inSignedRange
  · left
    have hsmall := h.small
    rw [eq_minP_iff] at hx
    rw [eq_maxU_iff] at hy
    rw [hy] at hsmall
    rw [hx, hy] at hidentity
    have hQ : Q = 2 ^ 255 := by omega
    rw [hQ, hy]
    decide
  · right
    rw [signed_toPattern hrange, Int.mul_comm]
    omega

theorem IsDivision.detect_mul_iff :
    detect detectMul (toPattern Q) y (toPattern Q * y) = none ↔ InSignedRange (signed (toPattern Q) * signed y) := by
  apply detect_mul_of_natAbs_lt
  have hx := natAbs_signed_le x
  have hy := natAbs_signed_le y
  have hsmall := h.small
  obtain hproduct | hproduct := h.product_eq <;> omega

theorem IsDivision.detect_add (hrange : InSignedRange (signed (toPattern Q) * signed y)) :
    detect detectAdd (toPattern Q * y) (toPattern R) (toPattern Q * y + toPattern R) = none := by
  apply detect_add_of_inSignedRange
  have hx := signed_inSignedRange x
  rw [signed_mul_of_inSignedRange hrange, h.signed_remainder]
  rw [InSignedRange] at *
  obtain hproduct | hproduct := h.product_eq <;> omega

end Division

/-! ### The commands -/

/-- Settles O55: the truncated pair is the library's `tdiv` and `tmod`. -/
theorem quoAndRemTruncate : Obligations.QuoAndRemTruncate := by
  refine ⟨encodedR3_of_row (by decide) rfl, encodedR3_of_row (by decide) rfl, fun rd ra rb s =>
    ⟨fun hzero => ?_, fun hnonzero => ⟨?quo, ?rem⟩⟩⟩
  · exact ⟨⟨_, rfl, s.commitDivision_zero rd _ hzero⟩, _, rfl, s.commitDivision_zero rd _ hzero⟩
  case quo =>
    rw [← truncQuo_eq]
    exact ⟨_, rfl, s.commitDivision_nonzero rd _ hnonzero⟩
  case rem =>
    have hdivision := isDivision_trunc (signed (s.srcA ra)) (signed_ne_zero hnonzero)
    refine ⟨_, _, rfl, s.commitDivision_nonzero rd _ hnonzero, ?_⟩
    rw [truncRem_eq, hdivision.signed_remainder]
    refine ⟨hdivision.remainder_eq, ?_, hdivision.small⟩
    rw [← Int.sign_eq_zero_iff_zero, Int.sign_tmod]
    exact ite_eq_or_eq _ _ _

/-- Settles O56: the floored pair is the library's `fdiv` and `fmod`. -/
theorem divAndModFloor : Obligations.DivAndModFloor := by
  refine ⟨encodedR3_of_row (by decide) rfl, encodedR3_of_row (by decide) rfl, fun rd ra rb s =>
    ⟨fun hzero => ?_, fun hnonzero => ⟨?div, ?mod⟩⟩⟩
  · exact ⟨⟨_, rfl, s.commitDivision_zero rd _ hzero⟩, _, rfl, s.commitDivision_zero rd _ hzero⟩
  case div =>
    rw [← floorQuo_eq _ hnonzero]
    exact ⟨_, rfl, s.commitDivision_nonzero rd _ hnonzero⟩
  case mod =>
    have hY := signed_ne_zero hnonzero
    have hdivision := isDivision_floor (signed (s.srcA ra)) hY
    refine ⟨_, _, rfl, s.commitDivision_nonzero rd _ hnonzero, ?_⟩
    rw [floorRem_eq _ hnonzero, hdivision.signed_remainder]
    exact ⟨hdivision.remainder_eq, fmod_zero_or_sign _ hY, hdivision.small⟩

/-- Settles O57: the Euclidean pair is the library's `ediv` and `emod`. -/
theorem diveAndModeAreEuclidean : Obligations.DiveAndModeAreEuclidean := by
  refine ⟨encodedR3_of_row (by decide) rfl, encodedR3_of_row (by decide) rfl, fun rd ra rb s =>
    ⟨fun hzero => ?_, fun hnonzero => ⟨?dive, ?mode⟩⟩⟩
  · exact ⟨⟨_, rfl, s.commitDivision_zero rd _ hzero⟩, _, rfl, s.commitDivision_zero rd _ hzero⟩
  case dive =>
    rw [← euclidQuo_eq _ hnonzero]
    exact ⟨_, rfl, s.commitDivision_nonzero rd _ hnonzero⟩
  case mode =>
    have hY := signed_ne_zero hnonzero
    have hdivision := isDivision_euclid (signed (s.srcA ra)) hY
    refine ⟨_, _, rfl, s.commitDivision_nonzero rd _ hnonzero, ?_⟩
    rw [euclidRem_eq _ hnonzero, hdivision.signed_remainder]
    exact ⟨hdivision.remainder_eq, Int.emod_nonneg _ hY, Int.emod_lt _ hY⟩

/-- The division commands write `f x y` for a value `f` of the patterns; here at MINP / -1. -/
theorem State.commitDivision_minimum (s : State) (rd : Reg) {x y v : Pattern} {f : Pattern → Pattern → Pattern}
    (hx : x = minP) (hy : y = maxU) (hv : f minP maxU = v) :
    WritesOnlyReg rd v s (s.commitDivision rd y (f x y)) := by
  subst hx hy hv
  exact s.commitDivision_nonzero rd _ (by decide)

/-- Settles O58: the six values at the pair are computed; the ranges are those of any convention. -/
theorem onlyMinimumByMinusOneDoesNotFit : Obligations.OnlyMinimumByMinusOneDoesNotFit := by
  refine ⟨fun rd ra rb s hx hy => ?minimum, fun x y hy => ?ranges⟩
  case minimum =>
    exact ⟨⟨_, rfl, s.commitDivision_minimum (f := truncQuo) rd hx hy (by decide)⟩,
      ⟨_, rfl, s.commitDivision_minimum (f := floorQuo) rd hx hy (by decide)⟩,
      ⟨_, rfl, s.commitDivision_minimum (f := euclidQuo) rd hx hy (by decide)⟩,
      ⟨_, rfl, s.commitDivision_minimum (f := truncRem) rd hx hy (by decide)⟩,
      ⟨_, rfl, s.commitDivision_minimum (f := floorRem) rd hx hy (by decide)⟩,
      ⟨_, rfl, s.commitDivision_minimum (f := euclidRem) rd hx hy (by decide)⟩⟩
  case ranges =>
    have hY := signed_ne_zero hy
    have htrunc := isDivision_trunc (signed x) hY
    have hfloor := isDivision_floor (signed x) hY
    have heuclid := isDivision_euclid (signed x) hY
    refine ⟨?_, htrunc.remainder_eq ▸ htrunc.remainder_inSignedRange,
      hfloor.remainder_eq ▸ hfloor.remainder_inSignedRange, heuclid.remainder_eq ▸ heuclid.remainder_inSignedRange⟩
    rw [or_and_left, or_and_left]
    exact ⟨htrunc.quotient_inSignedRange, hfloor.quotient_inSignedRange, heuclid.quotient_inSignedRange⟩

/-- Settles O59: the integer identity `Y*Q + R = X` of each convention, taken modulo 2^256. -/
theorem divisionIdentities : Obligations.DivisionIdentities := by
  intro x y hy
  have hY := signed_ne_zero hy
  rw [truncQuo_eq, truncRem_eq, floorQuo_eq x hy, floorRem_eq x hy, euclidQuo_eq x hy, euclidRem_eq x hy]
  exact ⟨(isDivision_trunc _ hY).pattern_identity, (isDivision_floor _ hY).pattern_identity,
    (isDivision_euclid _ hY).pattern_identity⟩

/-- The truncated remainder is on the dividend's side of zero, so the product lies between zero and the dividend. -/
theorem truncated_product_inSignedRange {x y : Pattern} (hy : y ≠ 0) (h : ¬(x = minP ∧ y = maxU)) :
    InSignedRange (signed (truncQuo x y) * signed y) := by
  have hdivision := isDivision_trunc (signed x) (signed_ne_zero hy)
  have hx := signed_inSignedRange x
  have hidentity := hdivision.identity
  have hle : ((signed x).tmod (signed y)).natAbs ≤ (signed x).natAbs := by
    rw [Int.natAbs_tmod]
    exact Nat.mod_le _ _
  rw [truncQuo_eq, signed_toPattern (hdivision.quotient_inSignedRange.resolve_left h), Int.mul_comm]
  rw [InSignedRange] at *
  obtain hneg | hnonneg := Int.lt_or_le (signed x) 0
  · have := tmod_nonpos (signed y) hneg.le
    omega
  · have := Int.tmod_nonneg (signed y) hnonneg
    omega

/-- Settles O60: SMUL is silent exactly for a product in range, which the truncated pair always has but at the pair of
R228; the counterexamples to R229's last sentence are computed. -/
theorem checkedIdentityHoldsForTheTruncatedPair : Obligations.CheckedIdentityHoldsForTheTruncatedPair := by
  refine ⟨fun x y hy hne => ?trunc, fun x y hy => ?others,
    by decide, by decide, by decide, by decide, by decide, by decide⟩
  case trunc =>
    have htrunc := isDivision_trunc (signed x) (signed_ne_zero hy)
    have hrange := truncated_product_inSignedRange hy hne
    rw [truncQuo_eq] at hrange ⊢
    rw [truncRem_eq]
    exact ⟨htrunc.detect_mul_iff.2 hrange, htrunc.detect_add hrange⟩
  case others =>
    have hfloor := isDivision_floor (signed x) (signed_ne_zero hy)
    have heuclid := isDivision_euclid (signed x) (signed_ne_zero hy)
    rw [floorQuo_eq x hy, floorRem_eq x hy, euclidQuo_eq x hy, euclidRem_eq x hy]
    exact ⟨hfloor.detect_mul_iff, hfloor.detect_add, heuclid.detect_mul_iff, heuclid.detect_add⟩

end Sys2Proof.Machine
end

section
/-! Faults (60_exceptions.md R250 to R258): what explains a fault, the illegal word, and the frozen core over a run; the
two ends of a finite command list (70_reset_and_hazards.md R287); and words of the spec (95_test_vectors.md 2.8). -/

namespace Sys2Proof

open Machine

/-! ### CAUSE and FCMD describe the fault (60_exceptions.md R251, R255, R256) -/

theorem explains_of_raisedBy {c : Cause} {w : CmdWord} {i : Instr} (hdecode : decode w = .ok i)
    (hc : c.raisedBy i = true) : c.explains w := by
  simpa [Cause.explains, hdecode] using hc

theorem illegalCommand_explains {w : CmdWord} {e : DecodeError} (hdecode : decode w = .error e) :
    Cause.illegalCommand.explains w := by
  simp [Cause.explains, hdecode]

theorem faultExplained_of_no_fault {s : State} (h : s.status.fault = false) : FaultExplained s :=
  fun hfault => absurd (hfault.symm.trans h) (by decide)

/-- Fault entry is explained by the sampled word, which it puts into FCMD. -/
theorem faultExplained_raise {s : State} {c : Cause} (hc : c.explains s.cmd) : FaultExplained (s.raise c) :=
  fun _ => ⟨c, rfl, hc⟩

/-- A command that writes a value leaves the latch alone; one that faults raises a cause of its own column of R251. -/
theorem faultExplained_effect {i : Instr} {s t : State} (h : FaultExplained s) (hdecode : decode s.cmd = .ok i)
    (heffect : Effect i s t) : FaultExplained t := by
  cases heffect with
  | reg | flagT | flagSG | dout => exact h
  | checked rd z c _ hc => exact faultExplained_raise (explains_of_raisedBy hdecode hc)
  | division rd _ hc => exact faultExplained_raise (explains_of_raisedBy hdecode hc)

/-- Settles O18: by the cases of a step; each fault entry has its cause from the word that it latches. -/
theorem stepKeepsFaultExplained : Obligations.StepKeepsFaultExplained := by
  intro s t h hstep
  obtain ⟨-, rfl⟩ | ⟨f, rest, -, rfl⟩ | ⟨c, rest, -, hcommand⟩ := step_cases hstep
  · exact h
  · exact faultExplained_of_no_fault rfl
  · have haccept : FaultExplained (s.accept c rest) := h
    obtain ⟨-, rfl⟩ | ⟨-, ⟨e, hdecode⟩, rfl⟩ | ⟨-, i, u, hdecode, heffect, -, rfl⟩ := hcommand
    · exact haccept
    · exact faultExplained_raise (s := s.accept c rest) (illegalCommand_explains hdecode)
    · have hu : FaultExplained u := faultExplained_effect haccept hdecode heffect
      exact hu

/-! ### The illegal word (60_exceptions.md R255) -/

theorem decode_error_of_illegal {w : CmdWord} (h : legal w = false) : ∃ e, decode w = .error e := by
  cases hdecode : decode w with
  | error e => exact ⟨e, rfl⟩
  | ok i => exact absurd (legal_iff_decode.2 ⟨i, hdecode⟩) (by simp [h])

theorem step_of_illegal {s : State} {c : Command} {rest : List HostAction} (hpending : s.pending = .command c :: rest)
    (hfault : s.status.fault = false) (hillegal : legal c.word = false) :
    step s = .next ((s.accept c rest).raise .illegalCommand).respond := by
  obtain ⟨e, hdecode⟩ := decode_error_of_illegal hillegal
  rw [step_of_command hpending, runAccepted, State.accept_status, if_neg (Bool.eq_false_iff.1 hfault),
    State.accept_cmd, hdecode]

/-- Settles O5: the step is acceptance, fault entry and response, and of the core only fault entry writes. -/
theorem illegalCommandChangesOnlyTheLatch : Obligations.IllegalCommandChangesOnlyTheLatch := by
  intro s c rest hpending hfault hillegal
  exact ⟨_, step_of_illegal hpending hfault hillegal, rfl, rfl, rfl, rfl, rfl, rfl, fun _ => ⟨rfl, rfl⟩, ⟨rfl, rfl⟩,
    rfl, rfl, rfl⟩

/-! ### A run of commands in the fault state (60_exceptions.md R258) -/

theorem run_succ_of_step {M : Host.Core} {n : Nat} {s u t : M.State} (hstep : M.step s = .next u)
    (hrun : M.run n u = .next t) : M.run (n + 1) s = .next t := by
  rw [Host.Core.run, hstep]
  exact hrun

theorem SameCore.refl (s : State) : SameCore s s :=
  ⟨s.sameRegs_refl, rfl, rfl, s.sameDout_refl⟩

theorem SameCore.status_eq {s t : State} (h : SameCore s t) : t.status = s.status := by
  obtain ⟨-, hstatus, -⟩ := h
  exact hstatus

theorem SameCore.trans {s t u : State} (h : SameCore s t) (h' : SameCore t u) : SameCore s u := by
  obtain ⟨hregs, hstatus, hfcmd, hdout, hmark⟩ := h
  obtain ⟨hregs', hstatus', hfcmd', hdout', hmark'⟩ := h'
  exact ⟨fun r => ⟨(hregs' r).1.trans (hregs r).1, (hregs' r).2.trans (hregs r).2⟩, hstatus'.trans hstatus,
    hfcmd'.trans hfcmd, hdout'.trans hdout, hmark'.trans hmark⟩

theorem onlyCommands_cons {a : HostAction} {l : List HostAction} :
    OnlyCommands (a :: l) ↔ (∃ c, a = .command c) ∧ OnlyCommands l :=
  List.forall_mem_cons

/-- With FAULT = 1 and no reset next, one step refuses a command or is idle. -/
theorem step_frozen {s : State} (hfault : s.status.fault = true) (honly : OnlyCommands s.pending) :
    ∃ u, step s = .next u ∧ u.status.fault = true ∧ SameCore s u ∧ u.k = s.k ∧ OnlyCommands u.pending := by
  cases hpending : s.pending with
  | nil => exact ⟨s, step_of_idle hpending, hfault, .refl s, rfl, honly⟩
  | cons a rest =>
    obtain ⟨⟨c, rfl⟩, hrest⟩ := onlyCommands_cons.1 (hpending ▸ honly)
    obtain ⟨u, hstep, hcore, hu, -, hk⟩ := faultRefusesEveryCommand s c rest hpending hfault
    exact ⟨u, hstep, hcore.status_eq ▸ hfault, hcore, hk, hu ▸ hrest⟩

/-- Settles O7, by induction on the number of steps: each one leaves the core, and commands only. -/
theorem faultFreezesTheCoreUntilReset : Obligations.FaultFreezesTheCoreUntilReset := by
  intro n
  induction n with
  | zero => exact fun s hfault _ => ⟨s, rfl, hfault, .refl s, rfl⟩
  | succ n ih =>
    intro s hfault honly
    obtain ⟨u, hstep, hu, hcore, hk, hrest⟩ := step_frozen hfault honly
    obtain ⟨t, hrun, ht, hcore', hk'⟩ := ih u hu hrest
    exact ⟨t, run_succ_of_step hstep hrun, ht, hcore.trans hcore', hk'.trans hk⟩

/-! ### The ends of a finite command list (10_state.md R25, 70_reset_and_hazards.md R287) -/

theorem step_answered {s : State} {c : Command} {rest : List HostAction} (hpending : s.pending = .command c :: rest) :
    ∃ u, step s = .next u ∧ Answered s c rest u := by
  obtain ⟨u, hstep⟩ := step_next s
  exact ⟨u, hstep, eachCommandIsAnsweredOnce s u c rest hpending hstep⟩

/-- Whether it faults on the way or not, a list of commands is answered command by command. -/
theorem run_answers_all {l : List HostAction} (honly : OnlyCommands l) {s : State} (hpending : s.pending = l) :
    ∃ t, core.run l.length s = .next t ∧ t.pending = [] ∧ t.rsp = s.rsp + l.length := by
  induction l generalizing s with
  | nil => exact ⟨s, rfl, hpending, rfl⟩
  | cons a rest ih =>
    obtain ⟨⟨c, rfl⟩, hrest⟩ := onlyCommands_cons.1 honly
    obtain ⟨u, hstep, hrsp, hu, -⟩ := step_answered hpending
    obtain ⟨t, hrun, hdone, hrsp'⟩ := ih hrest hu
    refine ⟨t, run_succ_of_step hstep hrun, hdone, ?_⟩
    rw [List.length_cons]
    omega

/-- A step that leaves FAULT = 0 for FAULT = 1 has latched the word of its command (60_exceptions.md R256). -/
theorem fcmd_of_step_faults {s u : State} {c : Command} {rest : List HostAction}
    (hpending : s.pending = .command c :: rest) (hstep : step s = .next u) (hsafe : s.status.fault = false)
    (hfault : u.status.fault = true) : u.fcmd = c.word := by
  obtain ⟨hnone, -⟩ | ⟨f, rest', hreset, -⟩ | ⟨c', rest', hcommand, hcases⟩ := step_cases hstep
  · cases hpending.symm.trans hnone
  · cases hpending.symm.trans hreset
  · cases hpending.symm.trans hcommand
    obtain ⟨hfault', -⟩ | ⟨-, -, rfl⟩ | ⟨-, i, v, -, heffect, -, rfl⟩ := hcases
    · cases hsafe.symm.trans hfault'
    · rfl
    · obtain ⟨-, hsame, -⟩ | ⟨hfcmd, -⟩ := heffect.latch
      · cases hfault.symm.trans (hsame.trans hsafe)
      · exact hfcmd

/-- `t` is a fault state with `k` at the place in `l` of the command whose word is in FCMD; `s` is where `l` began. -/
def FaultedAt (l : List HostAction) (s t : State) : Prop :=
  Faulted t ∧ ∃ j c, j < l.length ∧ t.k = s.k + j ∧ l[j]? = some (.command c) ∧ t.fcmd = c.word

/-- A fault further on in the list, counted from one completed command earlier. -/
theorem FaultedAt.cons {l : List HostAction} {u t : State} (h : FaultedAt l u t) {s : State} (hk : u.k = s.k + 1)
    (a : HostAction) : FaultedAt (a :: l) s t := by
  obtain ⟨hfault, j, c, hj, hkj, hget, hfcmd⟩ := h
  exact ⟨hfault, j + 1, c, Nat.succ_lt_succ hj, by omega, hget, hfcmd⟩

/-- From FAULT = 0 every command completes, or one faults and the core is frozen from there on. -/
theorem run_completes_or_faults {l : List HostAction} (honly : OnlyCommands l) {s : State} (hpending : s.pending = l)
    (hsafe : s.status.fault = false) :
    ∃ t, core.run l.length s = .next t ∧ ((Safe t ∧ t.k = s.k + l.length) ∨ FaultedAt l s t) := by
  induction l generalizing s with
  | nil => exact ⟨s, rfl, .inl ⟨hsafe, rfl⟩⟩
  | cons a rest ih =>
    obtain ⟨⟨c, rfl⟩, hrest⟩ := onlyCommands_cons.1 honly
    obtain ⟨u, hstep, -, hu, -, -, hstays, hmoves⟩ := step_answered hpending
    cases hfault : u.status.fault with
    | false =>
      obtain ⟨t, hrun, hend⟩ := ih hrest hu hfault
      have hmove := hmoves hfault
      refine ⟨t, run_succ_of_step hstep hrun, hend.imp ?_ fun hfaulted => hfaulted.cons hmove _⟩
      rintro ⟨hsafe', hk⟩
      refine ⟨hsafe', ?_⟩
      rw [List.length_cons]
      omega
    | true =>
      obtain ⟨t, hrun, hfault', ⟨-, -, hfcmd, -⟩, hk⟩ :=
        faultFreezesTheCoreUntilReset rest.length u hfault (hu ▸ hrest)
      exact ⟨t, run_succ_of_step hstep hrun, .inr ⟨hfault', 0, c, Nat.succ_pos _, hk.trans (hstays hfault),
        rfl, hfcmd.trans (fcmd_of_step_faults hpending hstep hsafe hfault)⟩⟩

/-- Settles O10: the run that answers every command is the one that completes or faults. -/
theorem finiteListEndsCompletedOrFaulted : Obligations.FiniteListEndsCompletedOrFaulted := by
  intro s honly hsafe
  obtain ⟨t, hrun, hdone, hrsp⟩ := run_answers_all honly rfl
  obtain ⟨t', hrun', hend⟩ := run_completes_or_faults honly rfl hsafe
  cases hrun.symm.trans hrun'
  exact ⟨t, hrun, hdone, hrsp, hend.imp_left fun ⟨hsafe', hk⟩ => ⟨⟨hdone, hsafe'⟩, hk⟩⟩

/-! ### Words of the spec (95_test_vectors.md section 2.8) -/

/-- Settles O15: the legal words are the encodings of their instructions; of the illegal ones, the first has its
must-be-zero field `n` = 1 and the second an opcode of no row. -/
theorem specWordsDecodeAsListed : Obligations.SpecWordsDecodeAsListed := by
  have hdecode := decodeOfEncodeIsTheInstruction
  exact ⟨hdecode (.ldw 15) rfl, hdecode (.stw 3) rfl, hdecode (.add 3 1 2) rfl, hdecode (.eq 1 2) rfl,
    hdecode (.shr 10 11 256) rfl, hdecode (.abs 2 1) rfl, hdecode (.smul 3 1 2) rfl, hdecode (.mode 3 1 2) rfl,
    rfl, rfl⟩

end Sys2Proof
end
